-- ==== Sys2Proof/Word.lean ====
section
/-! DEFINITION. The word types of the block and nothing more: every value is an unsigned bit field of a fixed
width (`00_scope.md` R13, R16). -/

namespace Sys2Proof

/-- One byte of a channel (R26). -/
abbrev Byte := BitVec 8

/-- A command word or an acknowledgement word (R70: CMD16, ACK16). -/
abbrev Word := BitVec 16

/-- The 64-bit telegram container (R70: TG64); the frame is bits 41 to 0 (R78). -/
abbrev Telegram := BitVec 64

end Sys2Proof
end

