-- ==== Sys2Proof/Machine/Codec.lean ====
section
/-! DEFINITION. The Telegram Codec (`40_codec.md` R100 to R106): pure functions from field values to a telegram
and its length. -/

namespace Sys2Proof.Machine

/-- `FRAME_LEN` (R7, R79): the significant bits of every telegram. -/
def frameLen : Nat := 42

/-- The container layout of R78 with its three data bytes; reserved bits 0 (R84, D3). -/
def telegramOf (a c x : Byte) : Telegram :=
  0#22 ++ 0x3FFF#14 ++ 0#1 ++ a ++ 0#1 ++ c ++ 0#1 ++ x ++ 1#1

/-- `pack(A, C)` (R101): the telegram, its checksum byte being `A ^ C` (R82), and its length. -/
def pack (a c : Byte) : Telegram × Nat := (telegramOf a c (a ^^^ c), frameLen)

/-- Address byte `0AAAAAAA` of a locomotive telegram (R80). -/
def locoAddrByte (addr : BitVec 7) : Byte := 0#1 ++ addr

/-- Command byte `01DLSSSS` of a locomotive telegram (R81). -/
def locoCmdByte (dir light : BitVec 1) (speed : BitVec 4) : Byte := 1#2 ++ dir ++ light ++ speed

/-- Address byte `10LLLLLL` of an accessory telegram (R80). -/
def accAddrByte (addr : BitVec 9) : Byte := 2#2 ++ addr.extractLsb' 0 6

/-- Command byte `1HHHCVVE` of an accessory telegram, `HHH` the complement of `addr[8:6]` (R81, C3). -/
def accCmdByte (addr : BitVec 9) (ctl : BitVec 1) (dev : BitVec 2) (en : BitVec 1) : Byte :=
  1#1 ++ ~~~(addr.extractLsb' 6 3) ++ ctl ++ dev ++ en

/-- `encodeLocomotive` (R102). -/
def encodeLocomotive (addr : BitVec 7) (speed : BitVec 4) (dir light : BitVec 1) : Telegram × Nat :=
  pack (locoAddrByte addr) (locoCmdByte dir light speed)

/-- `encodeAccessory` (R103). -/
def encodeAccessory (addr : BitVec 9) (dev : BitVec 2) (ctl en : BitVec 1) : Telegram × Nat :=
  pack (accAddrByte addr) (accCmdByte addr ctl dev en)

/-- `encodeIdle()` (R104). -/
def encodeIdle : Telegram × Nat := pack 0xFF#8 0x00#8

/-- `encodeReset()` (R105). -/
def encodeReset : Telegram × Nat := pack 0x00#8 0x00#8

/-- The address byte of a telegram, `T[26:19]` (R78). -/
def addrByteOf (t : Telegram) : Byte := t.extractLsb' 19 8

/-- The command byte of a telegram, `T[17:10]` (R78). -/
def cmdByteOf (t : Telegram) : Byte := t.extractLsb' 10 8

/-- The checksum byte of a telegram, `T[8:1]` (R78). -/
def checkByteOf (t : Telegram) : Byte := t.extractLsb' 1 8

end Sys2Proof.Machine
end

