-- ==== Sys2Proof/Machine/Operands.lean ====
section
/-! DEFINITION. The operand forms of command and acknowledgement words: field extraction (`30_encoding.md` R75),
assembly (R76), the acknowledgement word (R77), its match (`45_host.md` R216), the two bytes of a word on a channel
(`20_memory.md` R54) and the written forms of R89. -/

namespace Sys2Proof.Machine

/-- `w[15]`, the ack bit (R71). -/
def ackBit (w : Word) : BitVec 1 := w.extractLsb' 15 1

/-- `w[14:13]`, the type field, bit 14 most significant (R72, D4). -/
def typeField (w : Word) : BitVec 2 := w.extractLsb' 13 2

/-- `w[12:0]`, the payload (R71). -/
def payload (w : Word) : BitVec 13 := w.extractLsb' 0 13

/-- `w[12:6]` (R75). -/
def locoAddr (w : Word) : BitVec 7 := w.extractLsb' 6 7

/-- `w[5]` (R75). -/
def locoDir (w : Word) : BitVec 1 := w.extractLsb' 5 1

/-- `w[4]` (R75). -/
def locoLight (w : Word) : BitVec 1 := w.extractLsb' 4 1

/-- `w[3:0]` (R75). -/
def locoSpeed (w : Word) : BitVec 4 := w.extractLsb' 0 4

/-- `w[12:4]` (R75). -/
def accAddr (w : Word) : BitVec 9 := w.extractLsb' 4 9

/-- `w[3]` (R75). -/
def accCtl (w : Word) : BitVec 1 := w.extractLsb' 3 1

/-- `w[2:1]` (R75). -/
def accDev (w : Word) : BitVec 2 := w.extractLsb' 1 2

/-- `w[0]` (R75). -/
def accEn (w : Word) : BitVec 1 := w.extractLsb' 0 1

/-- `loco_word` (R76). -/
def locoWord (addr : BitVec 7) (speed : BitVec 4) (dir light ack : BitVec 1) : Word :=
  ack ++ 1#2 ++ addr ++ dir ++ light ++ speed

/-- `acc_word` (R76). -/
def accWord (addr : BitVec 9) (dev : BitVec 2) (ctl en ack : BitVec 1) : Word :=
  ack ++ 2#2 ++ addr ++ ctl ++ dev ++ en

/-- A command word of an illegal type `t` (R85). -/
def badWord (t : BitVec 2) (ack : BitVec 1) (body : BitVec 13) : Word := ack ++ t ++ body

/-- `ackword(w) = w | 0x8000` (R77). -/
def ackWord (w : Word) : Word := w ||| 0x8000#16

/-- `AckMatches(r, word)` (R216). -/
def ackMatches (r w : Word) : Bool := r.extractLsb' 0 15 == w.extractLsb' 0 15 && ackBit r == 1#1

/-- The two bytes of a word on a channel, the low byte first (R54, D5). -/
def wordBytes (w : Word) : List Byte := [w.extractLsb' 0 8, w.extractLsb' 8 8]

/-- The word of an older byte `b0` and the next byte `b1` (R57). -/
def bytesWord (b0 b1 : Byte) : Word := b1 ++ b0

/-- `LOCO a, s, d, l` (R89). -/
def locoForm (a : BitVec 7) (s : BitVec 4) (d l : BitVec 1) : Word := locoWord a s d l 0#1

/-- `ACC a, v, c, e` (R89). -/
def accForm (a : BitVec 9) (v : BitVec 2) (c e : BitVec 1) : Word := accWord a v c e 0#1

/-- The pseudo-form `LOCO.STOP` (R89): speed 0. -/
def locoStopForm (a : BitVec 7) (d l : BitVec 1) : Word := locoForm a 0#4 d l

/-- The pseudo-form `LOCO.ESTOP` (R89): speed 1. -/
def locoEStopForm (a : BitVec 7) (d l : BitVec 1) : Word := locoForm a 1#4 d l

end Sys2Proof.Machine
end

