-- ==== Sys2Proof/Syntax.lean ====
section
/-! DEFINITION. The operations of the block as syntax: one constructor per row of `spec/opcode_table.json`, with
the fields the row gives it, most significant first (`30_encoding.md` R71 to R83, R90). -/

namespace Sys2Proof

/-- The three formats of the block (R70). The same 16 bits can stand on the command channel and on the
acknowledgement channel, so a decoder is told which format it reads. -/
inductive Format
  /-- CMD16: a word of the command channel -/
  | cmd16
  /-- ACK16: a word of the acknowledgement channel -/
  | ack16
  /-- TG64: a telegram container -/
  | tg64
deriving DecidableEq, Repr

/-- One row of the opcode table each. -/
inductive Instr
  /-- CMD_LOCO (R73, R192): locomotive command word; `ack` is bit 15, ignored on input (R86). -/
  | cmdLoco (ack : BitVec 1) (addr : BitVec 7) (dir : BitVec 1) (light : BitVec 1) (speed : BitVec 4)
  /-- CMD_ACC (R74, R195): accessory command word. -/
  | cmdAcc (ack : BitVec 1) (addr : BitVec 9) (ctl : BitVec 1) (dev : BitVec 2) (en : BitVec 1)
  /-- CMD_BAD_00 (R85, R194): a command word of type 0. -/
  | cmdBad00 (ack : BitVec 1) (payload : BitVec 13)
  /-- CMD_BAD_11 (R85, R194): a command word of type 3. -/
  | cmdBad11 (ack : BitVec 1) (payload : BitVec 13)
  /-- ACK_LOCO (R77, R197): the acknowledgement of an applied locomotive command. -/
  | ackLoco (addr : BitVec 7) (dir : BitVec 1) (light : BitVec 1) (speed : BitVec 4)
  /-- ACK_ACC (R77, R197): the acknowledgement of an applied accessory command. -/
  | ackAcc (addr : BitVec 9) (ctl : BitVec 1) (dev : BitVec 2) (en : BitVec 1)
  /-- TG_LOCO (R83, R102): a locomotive telegram; `x` is its checksum byte. -/
  | tgLoco (addr : BitVec 7) (dir : BitVec 1) (light : BitVec 1) (speed : BitVec 4) (x : BitVec 8)
  /-- TG_ACC (R83, R103): an accessory telegram; `x` is its checksum byte. -/
  | tgAcc (addr : BitVec 9) (ctl : BitVec 1) (dev : BitVec 2) (en : BitVec 1) (x : BitVec 8)
  /-- TG_IDLE (R104). -/
  | tgIdle
  /-- TG_RESET (R105). -/
  | tgReset
deriving DecidableEq, Repr

/-- The format a row of the opcode table has. -/
def Instr.format : Instr → Format
  | .cmdLoco _ _ _ _ _ => .cmd16
  | .cmdAcc _ _ _ _ _ => .cmd16
  | .cmdBad00 _ _ => .cmd16
  | .cmdBad11 _ _ => .cmd16
  | .ackLoco _ _ _ _ => .ack16
  | .ackAcc _ _ _ _ => .ack16
  | .tgLoco _ _ _ _ _ => .tg64
  | .tgAcc _ _ _ _ _ => .tg64
  | .tgIdle => .tg64
  | .tgReset => .tg64

/-- The bits of an instruction: one 16-bit word or one 64-bit container (R70). -/
inductive Code
  | w16 (w : Word)
  | t64 (t : Telegram)
deriving DecidableEq, Repr

end Sys2Proof
end

