-- ==== Sys2Proof/Decode.lean ====
section
/-! DEFINITION. Decoding and encoding (`30_encoding.md`). A command word always decodes (R85: an illegal type is an
instruction of its own); an acknowledgement word and a telegram may be rejected, by name. The encoder is written
from the same layouts. -/

namespace Sys2Proof

/-- Why bits are no instruction of the format they are read as. -/
inductive DecodeError
  /-- fewer bytes than a word on a channel (R57) -/
  | shortWord
  /-- an acknowledgement has bit 15 = 1 (R77) -/
  | ackBitClear
  /-- an acknowledgement has type 1 or 2 (R77) -/
  | ackType
  /-- a telegram's reserved bits are 0 (R83, R84) -/
  | reservedBits
  /-- a telegram's preamble is fourteen 1 bits (R78) -/
  | preamble
  /-- a telegram's start bits are 0 (R78) -/
  | startBit
  /-- a telegram's stop bit is 1 (R78) -/
  | stopBit
  /-- the data bytes are those of none of the four kinds (R83) -/
  | telegramKind
  /-- a 16-bit word where a container is read, or the reverse -/
  | wrongFormat
deriving DecidableEq, Repr

/-- The operation of a command word (R72 to R75, R90, R191); bit 15 takes no part in the choice. -/
def decodeCommand (w : Word) : Instr :=
  if Machine.typeField w = 1#2 then
    .cmdLoco (Machine.ackBit w) (Machine.locoAddr w) (Machine.locoDir w) (Machine.locoLight w) (Machine.locoSpeed w)
  else if Machine.typeField w = 2#2 then
    .cmdAcc (Machine.ackBit w) (Machine.accAddr w) (Machine.accCtl w) (Machine.accDev w) (Machine.accEn w)
  else if Machine.typeField w = 0#2 then
    .cmdBad00 (Machine.ackBit w) (Machine.payload w)
  else
    .cmdBad11 (Machine.ackBit w) (Machine.payload w)

/-- An acknowledgement word (R77): bit 15 is 1 and the type 1 or 2. -/
def decodeAck (w : Word) : Except DecodeError Instr :=
  if Machine.ackBit w = 0#1 then .error .ackBitClear
  else if Machine.typeField w = 1#2 then
    .ok (.ackLoco (Machine.locoAddr w) (Machine.locoDir w) (Machine.locoLight w) (Machine.locoSpeed w))
  else if Machine.typeField w = 2#2 then
    .ok (.ackAcc (Machine.accAddr w) (Machine.accCtl w) (Machine.accDev w) (Machine.accEn w))
  else .error .ackType

/-- A telegram (R78, R83, fields by R110). The kind is told by the fixed bits; the checksum is kept as an operand and
checked by `Instr.wellFormed`. -/
def decodeTelegram (t : Telegram) : Except DecodeError Instr :=
  let a := Machine.addrByteOf t
  let c := Machine.cmdByteOf t
  let x := Machine.checkByteOf t
  if t.extractLsb' 42 22 ≠ 0#22 then .error .reservedBits
  else if t.extractLsb' 28 14 ≠ 0x3FFF#14 then .error .preamble
  else if t.extractLsb' 27 1 ≠ 0#1 ∨ t.extractLsb' 18 1 ≠ 0#1 ∨ t.extractLsb' 9 1 ≠ 0#1 then .error .startBit
  else if t.extractLsb' 0 1 ≠ 1#1 then .error .stopBit
  else if a.extractLsb' 7 1 = 0#1 ∧ c.extractLsb' 6 2 = 1#2 then
    .ok (.tgLoco (a.extractLsb' 0 7) (c.extractLsb' 5 1) (c.extractLsb' 4 1) (c.extractLsb' 0 4) x)
  else if a.extractLsb' 6 2 = 2#2 ∧ c.extractLsb' 7 1 = 1#1 then
    .ok (.tgAcc (~~~(c.extractLsb' 4 3) ++ a.extractLsb' 0 6) (c.extractLsb' 3 1) (c.extractLsb' 1 2)
      (c.extractLsb' 0 1) x)
  else if a = 0xFF#8 ∧ c = 0x00#8 ∧ x = 0xFF#8 then .ok .tgIdle
  else if a = 0x00#8 ∧ c = 0x00#8 ∧ x = 0x00#8 then .ok .tgReset
  else .error .telegramKind

/-- The instruction that a code is, read in a format (R70). -/
def decode : Format → Code → Except DecodeError Instr
  | .cmd16, .w16 w => .ok (decodeCommand w)
  | .ack16, .w16 w => decodeAck w
  | .tg64, .t64 t => decodeTelegram t
  | .cmd16, .t64 _ => .error .wrongFormat
  | .ack16, .t64 _ => .error .wrongFormat
  | .tg64, .w16 _ => .error .wrongFormat

/-- The command word at the front of a channel's bytes, and the bytes after it (R54, R57, R88). -/
def decodeBytes : List Byte → Except DecodeError (Instr × List Byte)
  | b0 :: b1 :: rest => .ok (decodeCommand (Machine.bytesWord b0 b1), rest)
  | [] => .error .shortWord
  | [_] => .error .shortWord

/-- The bits of an instruction (R73, R74, R76 to R78, R80, R81, R85). -/
def encode : Instr → Code
  | .cmdLoco ack addr dir light speed => .w16 (Machine.locoWord addr speed dir light ack)
  | .cmdAcc ack addr ctl dev en => .w16 (Machine.accWord addr dev ctl en ack)
  | .cmdBad00 ack body => .w16 (Machine.badWord 0#2 ack body)
  | .cmdBad11 ack body => .w16 (Machine.badWord 3#2 ack body)
  | .ackLoco addr dir light speed => .w16 (Machine.locoWord addr speed dir light 1#1)
  | .ackAcc addr ctl dev en => .w16 (Machine.accWord addr dev ctl en 1#1)
  | .tgLoco addr dir light speed x =>
    .t64 (Machine.telegramOf (Machine.locoAddrByte addr) (Machine.locoCmdByte dir light speed) x)
  | .tgAcc addr ctl dev en x =>
    .t64 (Machine.telegramOf (Machine.accAddrByte addr) (Machine.accCmdByte addr ctl dev en) x)
  | .tgIdle => .t64 Machine.encodeIdle.1
  | .tgReset => .t64 Machine.encodeReset.1

/-- The bits of a code, numbered as the opcode table numbers them. -/
def Code.toNat : Code → Nat
  | .w16 w => w.toNat
  | .t64 t => t.toNat

/-- The instruction of a row of the opcode table whose bits are `w`. DESIGN CHOICE (log 5): 16 bits that obey an
ACK16 row are read as that acknowledgement, any other 16 bits as a command word, since the table gives a row no
channel. A telegram is one 64-bit register and crosses no byte channel. -/
def decodeTableWord (nbits w : Nat) : Option Instr :=
  if nbits = 64 then (decodeTelegram (BitVec.ofNat 64 w)).toOption
  else if nbits = 16 then
    match decodeAck (BitVec.ofNat 16 w) with
    | .ok i => some i
    | .error _ =>
      match decodeBytes (Machine.wordBytes (BitVec.ofNat 16 w)) with
      | .ok (i, _) => some i
      | .error _ => none
  else none

end Sys2Proof
end

