-- ==== Sys2Proof/Config.lean ====
section
/-! DEFINITION. The implementation parameters of `00_scope.md` R7. A configuration is plain data that `State`
carries and no step writes (log 1), so a claim about every state is a claim about every configuration. The spec
leaves no result undefined, so there is no free value here. The cycle counts derived from the parameters and
their legality (R8) stand in `Machine/Params.lean`. -/

namespace Sys2Proof

/-- The parameters of one locomotive slot and of its Periodic Sender (R7). -/
structure LocoCfg where
  /-- `LOCO_ADDR[i]` -/
  addr   : BitVec 7
  /-- speed of `LOCO_INIT[i]` -/
  speed  : BitVec 4
  /-- direction of `LOCO_INIT[i]` -/
  dir    : BitVec 1
  /-- light of `LOCO_INIT[i]` -/
  light  : BitVec 1
  /-- `LOCO_PERIOD_CYC[i]` -/
  period : Nat
  /-- `LOCO_PHASE_CYC[i]` -/
  phase  : Nat
deriving DecidableEq, Repr

/-- The parameters of an instance of the block (R7). `NUM_LOCO` is the length of `locos`; `FRAME_LEN` is the
constant 42 of `Machine/Params.lean`. -/
structure Config where
  /-- `LOCO_ADDR`, `LOCO_INIT`, `LOCO_PERIOD_CYC`, `LOCO_PHASE_CYC`, slot 0 first -/
  locos             : List LocoCfg
  /-- `ACC_Q_DEPTH` -/
  accQDepth         : Nat
  /-- `CYC_PER_US` -/
  cycPerUs          : Nat
  /-- `T1_HALF_US` -/
  t1HalfUs          : Nat
  /-- `T0_HALF_US` -/
  t0HalfUs          : Nat
  /-- `T_SETTLE_US` -/
  tSettleUs         : Nat
  /-- `STARTUP_RESET_COUNT` -/
  startupResetCount : Nat
  /-- `STARTUP_IDLE_COUNT` -/
  startupIdleCount  : Nat
  /-- `ACC_PERIOD_CYC` -/
  accPeriod         : Nat
  /-- `ACC_PHASE_CYC` -/
  accPhase          : Nat
  /-- `CHAN_CAP_BYTES` -/
  chanCapBytes      : Nat
  /-- `ACK_GRACE_MS` -/
  ackGraceMs        : Nat
  /-- `DEFAULT_ATTEMPTS` -/
  defaultAttempts   : BitVec 16
deriving DecidableEq, Repr

/-- The reference values of R7. R7 leaves the locomotives, the periods and the phases OPEN: DESIGN CHOICE
(log 2), they are those of program P5 of `95_test_vectors.md`. Only `State.reset` uses this configuration. -/
def Config.reference : Config where
  locos := [{ addr := 3, speed := 0, dir := 0, light := 0, period := 20000, phase := 0 },
            { addr := 10, speed := 0, dir := 0, light := 0, period := 20000, phase := 0 }]
  accQDepth := 4
  cycPerUs := 1
  t1HalfUs := 58
  t0HalfUs := 100
  tSettleUs := 500
  startupResetCount := 20
  startupIdleCount := 10
  accPeriod := 20000
  accPhase := 2
  chanCapBytes := 1024
  ackGraceMs := 50
  defaultAttempts := 3

end Sys2Proof
end

