-- ==== Sys2Proof/Machine/Params.lean ====
section
/-! DEFINITION. What `00_scope.md` R7 and R8 derive from the parameters: cycle counts, and which configurations are
legal. -/

namespace Sys2Proof

/-- `NUM_LOCO` (R7). -/
def Config.numLoco (c : Config) : Nat := c.locos.length

/-- `H1`, the half-period of a 1 bit in cycles (R7). -/
def Config.h1 (c : Config) : Nat := c.t1HalfUs * c.cycPerUs

/-- `H0`, the half-period of a 0 bit in cycles (R7). -/
def Config.h0 (c : Config) : Nat := c.t0HalfUs * c.cycPerUs

/-- `SETTLE`, the settle interval in cycles (R7). -/
def Config.settle (c : Config) : Nat := c.tSettleUs * c.cycPerUs

/-- `GRACE`, the host's wait of one attempt in cycles (R7). -/
def Config.grace (c : Config) : Nat := c.ackGraceMs * 1000 * c.cycPerUs

/-- `half(b)` (R125): the half-period of a bit. -/
def Config.half (c : Config) (b : Bool) : Nat := if b then c.h1 else c.h0

/-- The legal configurations (R8, and the legal values of R7). -/
def Config.legal (c : Config) : Bool :=
  decide (c.locos.map LocoCfg.addr).Nodup
  && decide (c.numLoco ≤ 128)
  && c.locos.all (fun l => decide (1 ≤ l.period))
  && decide (1 ≤ c.accPeriod)
  && decide (1 ≤ c.accQDepth)
  && decide (c.chanCapBytes % 2 = 0) && decide (2 ≤ c.chanCapBytes)
  && decide (1 ≤ c.t1HalfUs) && decide (1 ≤ c.t0HalfUs) && decide (1 ≤ c.tSettleUs)
  && decide (1 ≤ c.cycPerUs)
  && decide (c.startupResetCount ≤ 255) && decide (c.startupIdleCount ≤ 255)
  && decide (1 ≤ c.ackGraceMs)

end Sys2Proof
end

