-- ==== Sys2Proof/Machine/State.lean ====
section
/-! DEFINITION. The state of the block (`10_state.md` R23 to R34) with its error-event output (R35, R230), and beside it
what the model needs of the world outside (log 7): the samples of `rst`, the host's actions and its delivery client. -/

namespace Sys2Proof.Machine

/-- A locomotive slot `store.slot[i]` (R23). -/
structure Slot where
  addr  : BitVec 7
  speed : BitVec 4
  dir   : BitVec 1
  light : BitVec 1
deriving DecidableEq, Repr

/-- A live entry of the accessory queue (R24). -/
structure AccEntry where
  addr : BitVec 9
  dev  : BitVec 2
  ctl  : BitVec 1
  en   : BitVec 1
deriving DecidableEq, Repr

/-- `SLEEP`, `WAIT`, `TX` (R27, R28). -/
inductive UnitState
  | sleep
  | wait
  | tx
deriving DecidableEq, Repr

/-- The state of a Periodic Sender (R27); the Accessory Drain has the same three elements (R28). -/
structure Sender where
  state : UnitState
  frame : Telegram
  tick  : Nat
deriving DecidableEq, Repr

/-- The Startup Sequencer (R29). -/
structure Startup where
  resetLeft : BitVec 8
  idleLeft  : BitVec 8
  done      : Bool
deriving DecidableEq, Repr

/-- `tx.owner` (R30). -/
inductive Owner
  /-- `NONE` -/
  | none
  /-- `SU` -/
  | su
  /-- `LOCO(i)` -/
  | loco (i : Nat)
  /-- `DRAIN` -/
  | drain
deriving DecidableEq, Repr

/-- `tx.state` (R31). -/
inductive TxState
  /-- `IDLE` -/
  | idle
  /-- `SETTLE` -/
  | settle
  /-- `HI` -/
  | hi
  /-- `LO` -/
  | lo
  /-- `END` -/
  | ending
deriving DecidableEq, Repr

/-- The Bit Transmitter (R31) with the owner of the line (R30). -/
structure Transmitter where
  owner : Owner
  state : TxState
  frame : Telegram
  len   : BitVec 7
  idx   : BitVec 6
  cnt   : Nat
deriving DecidableEq, Repr

/-- The five error kinds (R231). -/
inductive ErrKind
  | unknownMessageType
  | unknownLocomotiveAddress
  | accessoryQueueFull
  | channelTransportError
  | deliveryTimeout
deriving DecidableEq, Repr

/-- One error event (R230): its kind and the whole command word (R232). -/
structure ErrEvent where
  kind : ErrKind
  word : Word
deriving DecidableEq, Repr

/-- An action of the host, in the notation of R89. -/
inductive HostOp
  /-- `WR w` (R211) -/
  | write (w : Word)
  /-- `RD` (R212) -/
  | read
  /-- `STOP` (R213) -/
  | stop
  /-- `STEP n` (R89): let `n` clock steps pass -/
  | step (n : Nat)
  /-- `SEND w, attempts` (R215); `none` takes `DEFAULT_ATTEMPTS`. `oversleep` lists, attempt by attempt, how many steps
  beyond `GRACE` the host sleeps (R217, U11); 0 where the list ends. -/
  | send (w : Word) (attempts : Option (BitVec 16)) (oversleep : List Nat)
deriving DecidableEq, Repr

/-- What the host is told (R211, R212, R215, R221). -/
inductive HostReply
  /-- a write succeeded (R211) -/
  | ok
  /-- a read returned a word (R212) -/
  | word (w : Word)
  /-- a read returned "no data" (R212) -/
  | noData
  /-- an error the host is given and the block does not report: `ChannelTransportError` of a failed write (R211, D23),
  `DeliveryTimeout` of `sendWithAck` (R221); with the word the host tried to send (R231) -/
  | failed (e : ErrEvent)
  /-- `sendWithAck` returned `Success` for this word (R215) -/
  | delivered (w : Word)
deriving DecidableEq, Repr

/-- A call of `sendWithAck` between its write and its read (R215): the word, the attempts left after this one, the clock
steps still to pass before the read, and the oversleep of the attempts left. -/
structure Client where
  word      : Word
  left      : Nat
  wait      : Nat
  oversleep : List Nat
deriving DecidableEq, Repr

/-- The world outside the block (log 7): the MODEL's own fields, not the block's. -/
structure Env where
  /-- the samples of `rst` of the coming steps (R244, R260); 0 where the list ends -/
  rstIn   : List Bool
  /-- the host's actions still to come -/
  prog    : List HostOp
  /-- the host's delivery in progress -/
  client  : Option Client
  /-- what the host was told between the last two steps, oldest first -/
  replies : List HostReply
deriving DecidableEq, Repr

/-- Everything the spec gives the machine. -/
structure State where
  /-- the parameters of R7; no step writes them (R66, log 1) -/
  cfg     : Config
  /-- `store.slot`, slot 0 first (R23) -/
  slots   : List Slot
  /-- the live entries of `store.q`, head first; `store.qcount` is the length (R24) -/
  queue   : List AccEntry
  /-- `cmdch`, oldest byte first (R26) -/
  cmdch   : List Byte
  /-- `ackch`, oldest byte first (R26) -/
  ackch   : List Byte
  /-- `snd`, sender 0 first (R27) -/
  snd     : List Sender
  /-- `drn` (R28) -/
  drn     : Sender
  /-- `su` (R29) -/
  su      : Startup
  /-- `arb.last` (R30) -/
  arbLast : Nat
  /-- `tx` (R30, R31) -/
  tx      : Transmitter
  /-- `ctl.stop_req` (R34) -/
  stopReq : Bool
  /-- `ctl.halted` (R34) -/
  halted  : Bool
  /-- the error-event output of the last step (R35, R230, R244) -/
  errOut  : Option ErrEvent
  /-- the world outside -/
  env     : Env
deriving DecidableEq, Repr

/-- Reasons the machine stops. There is none: no error is fatal (R235), there is no trap (R236), the transmitter has no
error path (R131) and hardware faults are out of scope (R239). -/
inductive Fault
deriving DecidableEq, Repr

/-- Reasons the model gives no meaning. -/
inductive Refusal
  /-- raised by `exec` for an instruction without a meaning: none is left; safe -/
  | notModelled (mnemonic : String)
  /-- raised by `step` for a configuration that R7 and R8 make illegal ("A model refuses an illegal configuration"); safe -/
  | illegalConfig
  /-- raised by `txStart` for a length of 0 or above 64 (R129, D21); no requester asks for one; safe -/
  | txLength
deriving DecidableEq, Repr

/-- Is the startup sequence empty, so that `su.done` is 1 from reset (R37)? -/
def startupEmpty (c : Config) : Bool := c.startupResetCount + c.startupIdleCount == 0

/-- A Periodic Sender or the drain after reset (R37): asleep, its tick loaded with its phase if `su.done` is 1 at reset.
DESIGN CHOICE (log 3): the elements R37 gives no value hold 0. -/
def Sender.reset (c : Config) (phase : Nat) : Sender where
  state := .sleep
  frame := 0
  tick  := if startupEmpty c then phase else 0

/-- The state after reset of an instance with the configuration `c` (R37, R260), in a quiet environment. DESIGN CHOICE
(log 3): the elements R37 gives no value hold 0. -/
def State.resetOf (c : Config) : State where
  cfg := c
  slots := c.locos.map fun l => { addr := l.addr, speed := l.speed, dir := l.dir, light := l.light }
  queue := []
  cmdch := []
  ackch := []
  snd := c.locos.map fun l => Sender.reset c l.phase
  drn := Sender.reset c c.accPhase
  su := { resetLeft := BitVec.ofNat 8 c.startupResetCount
          idleLeft := BitVec.ofNat 8 c.startupIdleCount
          done := startupEmpty c }
  arbLast := c.locos.length
  tx := { owner := .none, state := .idle, frame := 0, len := 0, idx := 0, cnt := 0 }
  stopReq := false
  halted := false
  errOut := none
  env := { rstIn := [], prog := [], client := none, replies := [] }

/-- The machine after reset: the reference instance (log 2), nothing asked of it yet. -/
def State.reset : State := State.resetOf Config.reference

-- The updates of one element each.

def State.setSlots (s : State) (v : List Slot) : State := { s with slots := v }
def State.setQueue (s : State) (v : List AccEntry) : State := { s with queue := v }
def State.setCmdch (s : State) (v : List Byte) : State := { s with cmdch := v }
def State.setAckch (s : State) (v : List Byte) : State := { s with ackch := v }
def State.setSnd (s : State) (v : List Sender) : State := { s with snd := v }
def State.setDrn (s : State) (v : Sender) : State := { s with drn := v }
def State.setSu (s : State) (v : Startup) : State := { s with su := v }
def State.setArbLast (s : State) (v : Nat) : State := { s with arbLast := v }
def State.setTx (s : State) (v : Transmitter) : State := { s with tx := v }
def State.setStopReq (s : State) (v : Bool) : State := { s with stopReq := v }
def State.setHalted (s : State) (v : Bool) : State := { s with halted := v }
def State.setErrOut (s : State) (v : Option ErrEvent) : State := { s with errOut := v }
def State.setEnv (s : State) (v : Env) : State := { s with env := v }

end Sys2Proof.Machine
end

