-- ==== Sys2Proof/Machine/Ops.lean ====
section
/-! DEFINITION. The named operations on the state: the channels (`20_memory.md` R56, R57), the store
(`42_command_store.md` R140 to R147), the one error primitive (`60_exceptions.md` R230), the acknowledgement
(`44_handler.md` R197), and the start of a transmission (`41_transmitter.md` R126, `43_scheduling.md` R171). -/

namespace Sys2Proof.Machine

/-- The outcome of every operation of the block. -/
abbrev Result := Host.Outcome State Fault Refusal

/-- Go on from a next state; a stop stays a stop. -/
def andThen (r : Result) (f : State → Result) : Result :=
  match r with
  | .next s => f s
  | .fault e => .fault e
  | .refused e => .refused e

/-! ### Channels -/

/-- `ChanCount(ch)` (R12). -/
def chanCount (ch : List Byte) : Nat := ch.length

/-- `ChanPushWord(ch, w)` on a channel of `cap` bytes (R56): the channel with the word, or `none` for a failure. -/
def chanPushWord (cap : Nat) (ch : List Byte) (w : Word) : Option (List Byte) :=
  if 2 ≤ cap - chanCount ch then some (ch ++ wordBytes w) else none

/-- `ChanPopWord(ch)` (R57): the oldest word and the rest, or `none` for "no data". -/
def chanPopWord : List Byte → Option (Word × List Byte)
  | b0 :: b1 :: rest => some (bytesWord b0 b1, rest)
  | [] => none
  | [_] => none

/-! ### Locomotive slots -/

/-- The scan of `Lookup` from slot `i` on (R140). -/
def lookupFrom (addr : BitVec 7) : Nat → List Slot → Option Nat
  | _, [] => none
  | i, r :: rs => if r.addr = addr then some i else lookupFrom addr (i + 1) rs

/-- `Lookup(addr7)` (R140). -/
def lookup (addr : BitVec 7) (s : State) : Option Nat := lookupFrom addr 0 s.slots

/-- The new contents of a slot; its address stays (R141). -/
def slotUpdate (speed : BitVec 4) (dir light : BitVec 1) (r : Slot) : Slot :=
  { r with speed := speed, dir := dir, light := light }

/-- `SlotWrite(i, speed4, dir, light)` (R141). -/
def slotWrite (i : Nat) (speed : BitVec 4) (dir light : BitVec 1) (s : State) : State :=
  s.setSlots (s.slots.modify i (slotUpdate speed dir light))

/-- `SlotRead(i)` (R142). -/
def slotRead (i : Nat) (s : State) : Option Slot := s.slots[i]?

/-! ### Accessory queue -/

/-- The three results of `QEnqueueOrUpdate` (R146). -/
inductive QResult
  | updated
  | appended
  | full
deriving DecidableEq, Repr

/-- Does an entry have the key (`addr`, `dev`) (R144)? -/
def AccEntry.hasKey (addr : BitVec 9) (dev : BitVec 2) (e : AccEntry) : Bool := e.addr == addr && e.dev == dev

/-- `QLookup(addr9, dev2)` on the live entries (R145). -/
def qLookup (addr : BitVec 9) (dev : BitVec 2) (q : List AccEntry) : Option Nat := q.findIdx? (AccEntry.hasKey addr dev)

/-- `QEnqueueOrUpdate(e)` on a queue of capacity `depth` (R146). -/
def qEnqueueOrUpdate (depth : Nat) (e : AccEntry) (q : List AccEntry) : QResult × List AccEntry :=
  match qLookup e.addr e.dev q with
  | some j => (.updated, q.modify j fun r => { r with ctl := e.ctl, en := e.en })
  | none => if q.length < depth then (.appended, q ++ [e]) else (.full, q)

/-- `QDequeueFront()` (R147). -/
def qDequeueFront : List AccEntry → Option (AccEntry × List AccEntry)
  | [] => none
  | e :: rest => some (e, rest)

/-! ### Errors and acknowledgements -/

/-- `raise Err(kind, word)` (R230): the error-event output of this step carries the event, and nothing else changes. The
block has no trap, so nothing is saved and nothing is returned from (R236, R237). -/
def raise (k : ErrKind) (w : Word) (s : State) : State := s.setErrOut (some { kind := k, word := w })

/-- `SendAck(w)` (R197): the acknowledgement, or `ChannelTransportError` with the store as it is (C8). -/
def sendAck (w : Word) (s : State) : State :=
  match chanPushWord s.cfg.chanCapBytes s.ackch (ackWord w) with
  | some ch => s.setAckch ch
  | none => raise .channelTransportError w s

/-! ### Transmission -/

/-- `TxStart(T, L)` (R126), called when `tx.state = IDLE`; a length of 0 or above 64 is refused (R129, D21). -/
def txStart (t : Telegram) (len : Nat) (s : State) : Result :=
  if 1 ≤ len ∧ len ≤ 64 then
    .next (s.setTx { s.tx with
      frame := t
      len := BitVec.ofNat 7 len
      idx := BitVec.ofNat 6 (len - 1)
      state := .settle
      cnt := s.cfg.settle })
  else .refused .txLength

/-- `grant(o, T)` (R171). -/
def grant (o : Owner) (t : Telegram) (s : State) : Result :=
  txStart t frameLen (s.setTx { s.tx with owner := o })

end Sys2Proof.Machine
end

