-- ==== Sys2Proof/Machine/Ack.lean ====
section
/-! DEFINITION. The acknowledgement words (`30_encoding.md` R77): executing one is `SendAck` (`44_handler.md` R197), which the
command operations also call. DEDUCED (log 6): an acknowledgement word stands for the command word with bit 15 set, the
one command word that `SendAck` echoes unchanged. -/

namespace Sys2Proof.Machine

/-- `ACK_LOCO` (R77, R197). -/
def execAckLoco (addr : BitVec 7) (dir light : BitVec 1) (speed : BitVec 4) (s : State) : Result :=
  .next (sendAck (locoWord addr speed dir light 1#1) s)

/-- `ACK_ACC` (R77, R197). -/
def execAckAcc (addr : BitVec 9) (ctl : BitVec 1) (dev : BitVec 2) (en : BitVec 1) (s : State) : Result :=
  .next (sendAck (accWord addr dev ctl en 1#1) s)

end Sys2Proof.Machine
end

