-- ==== Sys2Proof/Machine/Command.lean ====
section
/-! DEFINITION. The operations of the Command Channel Handler on a command word (`44_handler.md` R192 to R196). None of
them stops the handler (R198). -/

namespace Sys2Proof.Machine

/-- `CMD_LOCO` (R192, R193). -/
def execCmdLoco (ack : BitVec 1) (addr : BitVec 7) (dir light : BitVec 1) (speed : BitVec 4) (s : State) : Result :=
  match lookup addr s with
  | none => .next (raise .unknownLocomotiveAddress (locoWord addr speed dir light ack) s)
  | some i => .next (sendAck (locoWord addr speed dir light ack) (slotWrite i speed dir light s))

/-- `CMD_ACC` (R195, R196). -/
def execCmdAcc (ack : BitVec 1) (addr : BitVec 9) (ctl : BitVec 1) (dev : BitVec 2) (en : BitVec 1) (s : State) :
    Result :=
  match qEnqueueOrUpdate s.cfg.accQDepth { addr := addr, dev := dev, ctl := ctl, en := en } s.queue with
  | (.updated, q) => .next (sendAck (accWord addr dev ctl en ack) (s.setQueue q))
  | (.appended, q) => .next (sendAck (accWord addr dev ctl en ack) (s.setQueue q))
  | (.full, _) => .next (raise .accessoryQueueFull (accWord addr dev ctl en ack) s)

/-- `CMD_BAD` for type 0 (R194). -/
def execCmdBad00 (ack : BitVec 1) (body : BitVec 13) (s : State) : Result :=
  .next (raise .unknownMessageType (badWord 0#2 ack body) s)

/-- `CMD_BAD` for type 3 (R194). -/
def execCmdBad11 (ack : BitVec 1) (body : BitVec 13) (s : State) : Result :=
  .next (raise .unknownMessageType (badWord 3#2 ack body) s)

end Sys2Proof.Machine
end

