-- ==== Sys2Proof/Machine/Arbiter.lean ====
section
/-! DEFINITION. The Line Arbiter's choice (`43_scheduling.md` R169 to R172): who asks for the line, with which telegram,
and the grant. `transmit` is what putting a telegram on the line does. -/

namespace Sys2Proof.Machine

/-- `SuWants()` (R169). -/
def suWants (u : Startup) : Bool := !u.done && (decide (0 < u.resetLeft.toNat) || decide (0 < u.idleLeft.toNat))

/-- `SuFrame()` (R169). -/
def suFrame (u : Startup) : Telegram := if 0 < u.resetLeft.toNat then encodeReset.1 else encodeIdle.1

/-- Is requester `r` in `WAIT`? Numbers below `NUM_LOCO` are the senders, `NUM_LOCO` is the drain (R172). -/
def waiting (s : State) (r : Nat) : Bool :=
  (decide (r < s.cfg.numLoco) && (s.snd[r]?.map Sender.state == some .wait))
  || (decide (r = s.cfg.numLoco) && decide (s.drn.state = .wait))

/-- The cyclic order in which `n + 1` requesters are considered after `last` (R172). -/
def searchOrder (last n : Nat) : List Nat := (List.range (n + 1)).map fun k => (last + (k + 1)) % (n + 1)

/-- `RoundRobinPick()` (R172). -/
def roundRobinPick (s : State) : Option Nat := (searchOrder s.arbLast s.cfg.numLoco).find? (waiting s)

/-- The requester `Arbitrate()` grants the line to, and its telegram, if it grants it at all (R171). -/
def offered (s : State) : Option (Owner × Telegram) :=
  if s.tx.state ≠ .idle ∨ s.stopReq = true then none
  else if s.su.done = false then (if suWants s.su then some (.su, suFrame s.su) else none)
  else
    match roundRobinPick s with
    | none => none
    | some r =>
      if r < s.cfg.numLoco then s.snd[r]?.map fun d => (.loco r, d.frame)
      else some (.drain, s.drn.frame)

/-- The requester enters `TX` and is remembered as the one granted last (R171). -/
def claim (o : Owner) (s : State) : State :=
  match o with
  | .none => s
  | .su => s
  | .loco i => (s.setSnd (s.snd.modify i fun d => { d with state := .tx })).setArbLast i
  | .drain => (s.setDrn { s.drn with state := .tx }).setArbLast s.cfg.numLoco

/-- One arm of `Arbitrate()` (R171): the requester's claim, then the grant. -/
def grantTo (o : Owner) (t : Telegram) (s : State) : Result := grant o t (claim o s)

/-- What a telegram does when it is executed: the line is granted to the requester whose turn it is if this is the telegram
that requester offers. DEDUCED (log 4): otherwise nothing happens, since "the transmitter only carries a telegram granted
by the Line Arbiter" (R133) and accepts one only when idle (R120, R126). -/
def transmit (t : Telegram) (s : State) : Result :=
  match offered s with
  | some (o, u) => if u = t then grantTo o t s else .next s
  | none => .next s

end Sys2Proof.Machine
end

