-- ==== Sys2Proof/Machine/TelegramOps.lean ====
section
/-! DEFINITION. The four telegram kinds (`30_encoding.md` R83, `40_codec.md` R102 to R105): executing one puts it on the line
for the requester that offers it (`43_scheduling.md` R171, `41_transmitter.md` R126). -/

namespace Sys2Proof.Machine

/-- `TG_LOCO` (R102). -/
def execTgLoco (addr : BitVec 7) (dir light : BitVec 1) (speed : BitVec 4) (x : Byte) (s : State) : Result :=
  transmit (telegramOf (locoAddrByte addr) (locoCmdByte dir light speed) x) s

/-- `TG_ACC` (R103). -/
def execTgAcc (addr : BitVec 9) (ctl : BitVec 1) (dev : BitVec 2) (en : BitVec 1) (x : Byte) (s : State) : Result :=
  transmit (telegramOf (accAddrByte addr) (accCmdByte addr ctl dev en) x) s

/-- `TG_IDLE` (R104). -/
def execTgIdle (s : State) : Result := transmit encodeIdle.1 s

/-- `TG_RESET` (R105). -/
def execTgReset (s : State) : Result := transmit encodeReset.1 s

end Sys2Proof.Machine
end

