-- ==== Sys2Proof/Machine/Dispatch.lean ====
section
/-! DEFINITION. The meaning of every instruction: one arm per row of the opcode table. -/

namespace Sys2Proof.Machine

def exec (i : Instr) (s : State) : Host.Outcome State Fault Refusal :=
  match i with
  | .cmdLoco ack addr dir light speed => Sys2Proof.Machine.execCmdLoco ack addr dir light speed s
  | .cmdAcc ack addr ctl dev en => Sys2Proof.Machine.execCmdAcc ack addr ctl dev en s
  | .cmdBad00 ack body => Sys2Proof.Machine.execCmdBad00 ack body s
  | .cmdBad11 ack body => Sys2Proof.Machine.execCmdBad11 ack body s
  | .ackLoco addr dir light speed => Sys2Proof.Machine.execAckLoco addr dir light speed s
  | .ackAcc addr ctl dev en => Sys2Proof.Machine.execAckAcc addr ctl dev en s
  | .tgLoco addr dir light speed x => Sys2Proof.Machine.execTgLoco addr dir light speed x s
  | .tgAcc addr ctl dev en x => Sys2Proof.Machine.execTgAcc addr ctl dev en x s
  | .tgIdle => Sys2Proof.Machine.execTgIdle s
  | .tgReset => Sys2Proof.Machine.execTgReset s

end Sys2Proof.Machine
end

