-- ==== Sys2Proof/Machine/Units.lean ====
section
/-! DEFINITION. The units that step with the clock (`43_scheduling.md` R160): the transmitter (A), the ticks (B), the handler
(C), the arbiter (D) and the halt check (E). -/

namespace Sys2Proof.Machine

/-! ### Sub-step A: the Bit Transmitter -/

/-- Bit `i` of the frame, as the transmitter reads it (R121). -/
def frameBit (t : Telegram) (i : Nat) : Bool := t.getLsbD i

/-- What `TxAdvance()` does to the transmitter's own elements (R125). -/
def txNext (c : Config) (t : Transmitter) : Transmitter :=
  match t.state with
  | .idle => t
  | .settle =>
    if 1 < t.cnt then { t with cnt := t.cnt - 1 }
    else { t with state := .hi, cnt := c.half (frameBit t.frame t.idx.toNat) }
  | .hi =>
    if 1 < t.cnt then { t with cnt := t.cnt - 1 }
    else { t with state := .lo, cnt := c.half (frameBit t.frame t.idx.toNat) }
  | .lo =>
    if 1 < t.cnt then { t with cnt := t.cnt - 1 }
    else if t.idx = 0#6 then { t with state := .ending }
    else { t with cnt := c.half (frameBit t.frame (t.idx.toNat - 1)), idx := t.idx - 1#6, state := .hi }
  | .ending => { t with state := .idle, owner := .none }

/-- Every tick counter is loaded with its phase (R167). -/
def loadPhases (s : State) : State :=
  (s.setSnd (s.snd.zipWith (fun d l => { d with tick := l.phase }) s.cfg.locos ++ s.snd.drop s.cfg.locos.length)).setDrn
    { s.drn with tick := s.cfg.accPhase }

/-- The startup counters after one more telegram of the sequence (R169). -/
def startupCount (u : Startup) : Startup :=
  if 0 < u.resetLeft.toNat then { u with resetLeft := u.resetLeft - 1#8 }
  else { u with idleLeft := u.idleLeft - 1#8 }

/-- `StartupDone()` (R169, R167). After a stop request it only counts the telegram off: `su.done` stays 0 (R177, D33) and so no
tick counter is loaded. DEDUCED (log 16): D33, which speaks of a stop during startup, goes before R169's pseudocode. -/
def startupDone (s : State) : State :=
  let u := startupCount s.su
  if u.resetLeft = 0#8 ∧ u.idleLeft = 0#8 ∧ s.stopReq = false then loadPhases (s.setSu { u with done := true })
  else s.setSu u

/-- `Complete(o)` (R168). -/
def complete (o : Owner) (s : State) : State :=
  match o with
  | .none => s
  | .su => startupDone s
  | .loco i => s.setSnd (s.snd.modify i fun d => { d with state := .sleep })
  | .drain => s.setDrn { s.drn with state := .sleep }

/-- `TxAdvance()` (R125). -/
def txAdvance (s : State) : State :=
  let s' := s.setTx (txNext s.cfg s.tx)
  if s.tx.state = .ending then complete s.tx.owner s' else s'

/-! ### Sub-step B: ticks -/

/-- `TickFires(cnt, PERIOD)` (R162): whether a tick fires, and the counter after it. -/
def tickFires (cnt period : Nat) : Bool × Nat :=
  if cnt = 0 then (true, period - 1) else (false, cnt - 1)

/-- `SenderTick(i)` (R163) on sender i's parameters, slot and state; a tick outside `SLEEP` is lost (R164). -/
def senderTick (l : LocoCfg) (r : Slot) (d : Sender) : Sender :=
  let t := tickFires d.tick l.period
  if t.1 = true ∧ d.state = .sleep then
    { state := .wait, frame := (encodeLocomotive r.addr r.speed r.dir r.light).1, tick := t.2 }
  else { d with tick := t.2 }

/-- Every sender's tick; the senders are independent of one another (R160). -/
def senderTicks : List LocoCfg → List Slot → List Sender → List Sender
  | l :: ls, r :: rs, d :: ds => senderTick l r d :: senderTicks ls rs ds
  | [], _, ds => ds
  | _ :: _, [], ds => ds
  | _ :: _, _ :: _, [] => []

/-- `DrainTick()` (R165, R166). -/
def drainTick (s : State) : State :=
  let t := tickFires s.drn.tick s.cfg.accPeriod
  if t.1 = true ∧ s.drn.state = .sleep then
    match qDequeueFront s.queue with
    | none => s.setDrn { s.drn with tick := t.2 }
    | some (e, rest) =>
      (s.setQueue rest).setDrn
        { state := .wait, frame := (encodeAccessory e.addr e.dev e.ctl e.en).1, tick := t.2 }
  else s.setDrn { s.drn with tick := t.2 }

/-- Sub-step B (R160). -/
def ticks (s : State) : State := drainTick (s.setSnd (senderTicks s.cfg.locos s.slots s.snd))

/-! ### Sub-step C: the handler -/

/-- `HandlerStep()` (R190, R191): pop one word, if there is one, and run the operation it is. -/
def handlerStep (s : State) : Result :=
  match chanPopWord s.cmdch with
  | some (w, rest) => exec (decodeCommand w) (s.setCmdch rest)
  | none => .next s

/-! ### Sub-step D: the arbiter -/

/-- `Arbitrate()` (R171): the telegram offered is run as the instruction it is; bits that are no telegram are sent all the
same (R121: the transmitter reads only the frame). -/
def arbitrate (s : State) : Result :=
  match offered s with
  | none => .next s
  | some (o, t) =>
    match decodeTelegram t with
    | .ok i => exec i s
    | .error _ => grantTo o t s

/-! ### Sub-step E and the whole step -/

/-- The halt check (R178). -/
def haltCheck (s : State) : State :=
  if s.stopReq = true ∧ s.tx.state = .idle then s.setHalted true else s

/-- Are the ticks enabled? Evaluated at the start of the step (R160). -/
def tickEnable (s : State) : Bool := s.su.done && !s.stopReq

/-- Sub-steps A and B (R160). -/
def advanceAndTick (s : State) : State :=
  let s' := txAdvance s
  if tickEnable s then ticks s' else s'

/-- One clock step of the block (R160); a halted block changes nothing (R161, R179). -/
def blockStep (s : State) : Result :=
  if s.halted = true then .next s
  else
    let s' := advanceAndTick s
    andThen (if s'.stopReq = true then .next s' else handlerStep s') fun t =>
      andThen (arbitrate t) fun u => .next (haltCheck u)

end Sys2Proof.Machine
end

