-- ==== Sys2Proof/Machine/HostModel.lean ====
section
/-! DEFINITION. The world outside (`45_host.md`): the host's actions between two steps (R210 to R213), its delivery client
(R215 to R222), reset (`70_reset_and_hazards.md` R260), and the clock step with all of them. -/

namespace Sys2Proof.Machine

/-! ### Host actions -/

/-- What the host is told is put on record. -/
def reply (r : HostReply) (s : State) : State := s.setEnv { s.env with replies := s.env.replies ++ [r] }

/-- `WR w` (R211). -/
def hostWrite (w : Word) (s : State) : HostReply × State :=
  if s.halted = true then (.failed { kind := .channelTransportError, word := w }, s)
  else
    match chanPushWord s.cfg.chanCapBytes s.cmdch w with
    | some ch => (.ok, s.setCmdch ch)
    | none => (.failed { kind := .channelTransportError, word := w }, s)

/-- `RD` (R212). -/
def hostRead (s : State) : HostReply × State :=
  if s.halted = true then (.noData, s)
  else
    match chanPopWord s.ackch with
    | some (w, rest) => (.word w, s.setAckch rest)
    | none => (.noData, s)

/-- `STOP` (R213). -/
def hostStop (s : State) : State := s.setStopReq true

/-! ### The delivery client -/

/-- One attempt of `sendWithAck` (R215, R217): the write, whose result is not examined (R218), and the wait. -/
def startAttempt (w : Word) (left : Nat) (oversleep : List Nat) (s : State) : State :=
  let s' := (hostWrite w s).2
  let c : Client := { word := w, left := left, wait := s.cfg.grace + oversleep.headD 0, oversleep := oversleep.tail }
  s'.setEnv { s'.env with client := some c }

/-- The client returns to its caller (R215, R221). -/
def finishClient (r : HostReply) (s : State) : State := reply r (s.setEnv { s.env with client := none })

/-- Does what was read acknowledge the word (R215, R216)? -/
def acknowledges (r : HostReply) (w : Word) : Bool :=
  match r with
  | .word v => ackMatches v w
  | .ok => false
  | .noData => false
  | .failed _ => false
  | .delivered _ => false

/-- The read that ends an attempt, and what follows it: success, the next attempt, or `DeliveryTimeout` (R215, R219). -/
def finishAttempt (c : Client) (s : State) : State :=
  let r := hostRead s
  if acknowledges r.1 c.word then finishClient (.delivered c.word) r.2
  else if c.left = 0 then finishClient (.failed { kind := .deliveryTimeout, word := c.word }) r.2
  else startAttempt c.word (c.left - 1) c.oversleep r.2

/-- The host's program up to its next clock step (R89, R210). `SEND` with no attempts fails at once (R219). -/
def runProg : List HostOp → State → State
  | [], s => s.setEnv { s.env with prog := [] }
  | .write w :: p, s => let r := hostWrite w s; runProg p (reply r.1 r.2)
  | .read :: p, s => let r := hostRead s; runProg p (reply r.1 r.2)
  | .stop :: p, s => runProg p (hostStop s)
  | .step 0 :: p, s => runProg p s
  | .step (n + 1) :: p, s => s.setEnv { s.env with prog := .step n :: p }
  | .send w attempts oversleep :: p, s =>
    match (attempts.getD s.cfg.defaultAttempts).toNat with
    | 0 => runProg p (reply (.failed { kind := .deliveryTimeout, word := w }) s)
    | n + 1 => let s' := startAttempt w n oversleep s; s'.setEnv { s'.env with prog := p }

/-- A delivery in progress before a clock step: once its wait is over it reads and goes on (R215). -/
def clientTurn (s : State) : State :=
  match s.env.client with
  | some c => if c.wait = 0 then finishAttempt c s else s
  | none => s

/-- The host's turn before a clock step: first its delivery; the program runs only while no delivery is in progress, since
`sendWithAck` returns before its caller does anything else (R215). -/
def hostTurn (s : State) : State :=
  let s' := clientTurn s
  match s'.env.client with
  | some _ => s'
  | none => runProg s'.env.prog s'

/-- One clock step passes for a waiting client (R217). -/
def passTime (s : State) : State :=
  match s.env.client with
  | some c => s.setEnv { s.env with client := some { c with wait := c.wait - 1 } }
  | none => s

/-! ### Reset and the clock -/

/-- A step with `rst = 1` (R260): every element takes its R37 value, the configuration and the world outside stay. -/
def resetStep (s : State) : State := { State.resetOf s.cfg with env := s.env }

/-- The outputs of the last step are over: no event is carried unless one is raised (R230). -/
def clearOutputs (s : State) : State := (s.setErrOut none).setEnv { s.env with replies := [] }

/-- What happens before the clock edge: the host's turn, and time passes for its client. -/
def beforeEdge (s : State) : State := passTime (hostTurn (clearOutputs s))

/-- The clock edge with its sample of `rst` (R260). -/
def clockEdge (s : State) : Result :=
  match s.env.rstIn with
  | true :: r => .next (resetStep (s.setEnv { s.env with rstIn := r }))
  | false :: r => blockStep (s.setEnv { s.env with rstIn := r })
  | [] => blockStep s

/-- One step of the machine: the host's actions, then one clock cycle (R14, R210). An illegal configuration has no
meaning (R8, D22). -/
def machineStep (s : State) : Result :=
  if s.cfg.legal = true then clockEdge (beforeEdge s) else .refused .illegalConfig

end Sys2Proof.Machine
end

