-- ==== Sys2Proof/Machine/Fetch.lean ====
section
/-! DEFINITION. Where the next step finds the operation it runs (log 5): a command word at the front of the command channel
(`44_handler.md` R190), an acknowledgement in the command it answers (R197), a telegram with the requester whose turn it
is (`43_scheduling.md` R171). -/

namespace Sys2Proof.Machine

/-- Nothing outside disturbs the next step: no reset, no host action, no stop. -/
def quiet (s : State) : State :=
  ((s.setStopReq false).setHalted false).setEnv { s.env with rstIn := [], prog := [], client := none }

/-- The word becomes the next one the handler pops. -/
def placeCommand (w : Word) (s : State) : State := s.setCmdch (wordBytes w ++ s.cmdch.drop 2)

/-- What an acknowledged command needs: a slot with its address, or a place in the queue (R192, R195). -/
def makeRoom (w : Word) (s : State) : State :=
  if typeField w = 1#2 then
    match lookup (locoAddr w) s with
    | some _ => s
    | none => s.setSlots (s.slots.modify 0 fun r => { r with addr := locoAddr w })
  else
    match qEnqueueOrUpdate s.cfg.accQDepth
        { addr := accAddr w, dev := accDev w, ctl := accCtl w, en := accEn w } s.queue with
    | (.full, _) => s.setQueue []
    | (.updated, _) => s
    | (.appended, _) => s

/-- Startup asks for the line with a Reset telegram, or with an Idle one (R169). -/
def startupAsks (reset : Bool) (s : State) : State :=
  if reset then s.setSu { s.su with resetLeft := if s.su.resetLeft = 0#8 then 1#8 else s.su.resetLeft, done := false }
  else s.setSu { resetLeft := 0#8, idleLeft := if s.su.idleLeft = 0#8 then 1#8 else s.su.idleLeft, done := false }

/-- Sender 0 waits with the telegram and is next in turn (R172). -/
def senderAsks (t : Telegram) (s : State) : State :=
  ((s.setSu { s.su with done := true }).setSnd
    (s.snd.modify 0 fun d => { d with state := .wait, frame := t })).setArbLast s.cfg.numLoco

/-- The drain waits with the telegram and is next in turn (R172). -/
def drainAsks (t : Telegram) (s : State) : State :=
  ((s.setSu { s.su with done := true }).setDrn
    { s.drn with state := .wait, frame := t }).setArbLast (s.cfg.numLoco - 1)

/-- The requester that sends telegrams of this kind asks for the free line. -/
def placeTelegram (t : Telegram) (s : State) : State :=
  let s' := s.setTx { s.tx with owner := .none, state := .idle }
  if t = encodeReset.1 then startupAsks true s'
  else if t = encodeIdle.1 then startupAsks false s'
  else if (addrByteOf t).extractLsb' 7 1 = 0#1 then senderAsks t s'
  else drainAsks t s'

/-- The state whose next step runs the operation with the bits `w` (log 5). -/
def placeTableWord (nbits w : Nat) (s : State) : State :=
  if nbits = 64 then placeTelegram (BitVec.ofNat 64 w) (quiet s)
  else
    let v : Word := BitVec.ofNat 16 w
    match decodeAck v with
    | .ok _ => placeCommand v (makeRoom v (quiet s))
    | .error _ => placeCommand v (quiet s)

end Sys2Proof.Machine
end

