-- ==== Sys2Proof/Machine/Step.lean ====
section
/-! DEFINITION. The step function: one clock cycle with the host actions before it (`00_scope.md` R14, `45_host.md` R210). -/

namespace Sys2Proof.Machine

/-- One step of the machine. -/
def step (s : State) : Host.Outcome State Fault Refusal := machineStep s

/-- `s` with the instruction of an opcode-table row placed where the next step takes it from (log 5). -/
def State.withFetchWord (s : State) (nbits w : Nat) : State := placeTableWord nbits w s

end Sys2Proof.Machine
end

