-- ==== Sys2Proof/Machine/Flags.lean ====
section
/-! DEFINITION. The block has no condition flags (`10_state.md` R20); what a test bench sees are its outputs, all functions
of the state (R32, R35, `60_exceptions.md` R244). -/

namespace Sys2Proof.Machine

/-- The level of the line in a transmitter state (R32, D7, D9). -/
def lineLevel : TxState → Bool
  | .idle => true
  | .settle => false
  | .hi => true
  | .lo => false
  | .ending => true

/-- `dcc_out` (R32). -/
def dccOut (s : State) : Bool := s.halted || lineLevel s.tx.state

/-- `status_startup_done` (R35). -/
def statusStartupDone (s : State) : Bool := s.su.done

/-- `status_halted` (R35). -/
def statusHalted (s : State) : Bool := s.halted

/-- The code of an error kind (R231, D14). -/
def errKindCode : ErrKind → BitVec 3
  | .unknownMessageType => 1
  | .unknownLocomotiveAddress => 2
  | .accessoryQueueFull => 3
  | .channelTransportError => 4
  | .deliveryTimeout => 5

/-- `err_valid` (R244). -/
def errValid (s : State) : Bool := s.errOut.isSome

/-- `err_code` (R244); 0 means "no event" (R231). -/
def errCode (s : State) : BitVec 3 :=
  match s.errOut with
  | some e => errKindCode e.kind
  | none => 0

/-- `err_word` (R244), where there is an event. -/
def errWord (s : State) : Option Word := s.errOut.map ErrEvent.word

end Sys2Proof.Machine
end

