-- ==== Sys2Proof/WellFormed.lean ====
section
/-! DEFINITION. The checks on an instruction that its fields' widths do not already make: the checksum byte of a
telegram is the XOR of its two data bytes (`30_encoding.md` R82, and the "also holds" column of R83). Every other
field of every row may hold any value of its width (R85, R87). -/

namespace Sys2Proof

/-- Does the instruction obey R82? The Idle and Reset telegrams are constants (R104, R105). -/
def Instr.wellFormed : Instr → Bool
  | .cmdLoco _ _ _ _ _ => true
  | .cmdAcc _ _ _ _ _ => true
  | .cmdBad00 _ _ => true
  | .cmdBad11 _ _ => true
  | .ackLoco _ _ _ _ => true
  | .ackAcc _ _ _ _ => true
  | .tgLoco addr dir light speed x => x == Machine.locoAddrByte addr ^^^ Machine.locoCmdByte dir light speed
  | .tgAcc addr ctl dev en x => x == Machine.accAddrByte addr ^^^ Machine.accCmdByte addr ctl dev en
  | .tgIdle => true
  | .tgReset => true

end Sys2Proof
end

