-- ==== Sys2Proof/Safety.lean ====
section
/-! DEFINITION. The terms in which claims about the machine are stated: the invariants the spec gives (`10_state.md` R24 to R33,
`20_memory.md` R55), what counts as a telegram on the line, the waveform of a transmission (`41_transmitter.md` R127), and
which elements hold "no value" (R37). -/

namespace Sys2Proof.Safety

open Sys2Proof.Machine

/-! ### Invariants -/

/-- The configuration is legal (R8) and the slots and senders are those it describes (R23, R27, R143). -/
def ConfigOk (s : State) : Prop :=
  s.cfg.legal = true ∧ s.slots.map Slot.addr = s.cfg.locos.map LocoCfg.addr ∧ s.snd.length = s.cfg.numLoco

/-- Each channel holds an even number of bytes, at most its capacity (R26, R55). -/
def ChannelsOk (s : State) : Prop :=
  (s.cmdch.length % 2 = 0 ∧ s.cmdch.length ≤ s.cfg.chanCapBytes)
  ∧ (s.ackch.length % 2 = 0 ∧ s.ackch.length ≤ s.cfg.chanCapBytes)

/-- The key of a queue entry (R144). -/
def entryKey (e : AccEntry) : BitVec 9 × BitVec 2 := (e.addr, e.dev)

/-- No two live entries have the same key (R25), and the queue keeps to its capacity (R24). -/
def QueueOk (s : State) : Prop :=
  (s.queue.map entryKey).Nodup ∧ s.queue.length ≤ s.cfg.accQDepth

/-- Is sender `i` in the unit state `u`? -/
def SenderIn (s : State) (i : Nat) (u : UnitState) : Prop := s.snd[i]?.map Sender.state = some u

/-- The owner of the line and the units in `TX` agree (R33); `arb.last` is an index (R30). -/
def LineOk (s : State) : Prop :=
  (s.tx.owner = .none ↔ s.tx.state = .idle)
  ∧ (∀ i, SenderIn s i .tx ↔ s.tx.owner = .loco i)
  ∧ (s.drn.state = .tx ↔ s.tx.owner = .drain)
  ∧ s.arbLast ≤ s.cfg.numLoco

/-- `su.done` is set only when both startup counters are 0, and then always unless a stop was requested (R29, D33); the
sequencer owns the line only while it has telegrams to send, and until `su.done` no other requester is active (R167, R169,
R171). -/
def StartupOk (s : State) : Prop :=
  (s.su.done = true → s.su.resetLeft = 0#8 ∧ s.su.idleLeft = 0#8)
  ∧ (s.su.resetLeft = 0#8 ∧ s.su.idleLeft = 0#8 → s.su.done = true ∨ s.stopReq = true)
  ∧ (s.tx.owner = .su → s.su.done = false ∧ ¬(s.su.resetLeft = 0#8 ∧ s.su.idleLeft = 0#8))
  ∧ (s.su.done = false → (∀ d ∈ s.snd, d.state = .sleep) ∧ s.drn.state = .sleep)

/-- A transmission is of 42 bits and its counters stay in the ranges R31 gives them (R122, R123, R125, R126). -/
def TransmitterOk (s : State) : Prop :=
  (s.tx.state ≠ .idle → s.tx.len = 42#7 ∧ s.tx.idx.toNat ≤ 41)
  ∧ (s.tx.state = .settle → 1 ≤ s.tx.cnt ∧ s.tx.cnt ≤ s.cfg.settle)
  ∧ (s.tx.state = .hi ∨ s.tx.state = .lo →
      1 ≤ s.tx.cnt ∧ s.tx.cnt ≤ s.cfg.half (frameBit s.tx.frame s.tx.idx.toNat))

/-- A halted block has been asked to stop and its line is idle (R178, R179). -/
def HaltOk (s : State) : Prop := s.halted = true → s.stopReq = true ∧ s.tx.state = .idle

/-- Every tick counter fits the width R27 and R28 give it. -/
def TicksOk (s : State) : Prop :=
  (∀ (i : Nat) (l : LocoCfg) (d : Sender), s.cfg.locos[i]? = some l → s.snd[i]? = some d → d.tick ≤ max (l.period - 1) l.phase)
  ∧ s.drn.tick ≤ max (s.cfg.accPeriod - 1) s.cfg.accPhase

/-- A telegram: what `pack` makes of two data bytes (R101). -/
def IsTelegram (t : Telegram) : Prop := ∃ a c : Byte, t = (pack a c).1

/-- A requester that waits holds a telegram of its own kind, a sender one for its slot's address (R163, R165), and what is
on the line is a telegram (R133, R171). -/
def FramesOk (s : State) : Prop :=
  (∀ (i : Nat) (d : Sender) (r : Slot), s.snd[i]? = some d → s.slots[i]? = some r → d.state = .wait →
      ∃ speed dir light, d.frame = (encodeLocomotive r.addr speed dir light).1)
  ∧ (s.drn.state = .wait → ∃ addr dev ctl en, s.drn.frame = (encodeAccessory addr dev ctl en).1)
  ∧ (s.tx.state ≠ .idle → IsTelegram s.tx.frame)

/-- All of them. -/
def Inv (s : State) : Prop :=
  ConfigOk s ∧ ChannelsOk s ∧ QueueOk s ∧ LineOk s ∧ StartupOk s ∧ TransmitterOk s ∧ HaltOk s ∧ TicksOk s ∧ FramesOk s

/-! ### Steps -/

/-- The coming step is no reset step (R260). -/
def NoReset (s : State) : Prop := s.env.rstIn.headD false = false

/-- The state at the clock edge of a step that is no reset step: the host has had its turn and one sample of `rst` is
used. -/
def atEdge (s : State) : State :=
  let e := beforeEdge s
  e.setEnv { e.env with rstIn := e.env.rstIn.tail }

/-- What is left of a step once the handler is through: the arbiter and the halt check (R160 D, E). -/
def afterHandler (s : State) : Result := andThen (arbitrate s) fun u => .next (haltCheck u)

/-! ### The waveform -/

/-- `popcount(v)` (R12). -/
def popcount {w : Nat} (v : BitVec w) : Nat := (List.range w).countP fun i => v.getLsbD i

/-- `b_j = T[L-1-j]` (R127). -/
def lineBit (t : Telegram) (len j : Nat) : Bool := frameBit t (len - 1 - j)

/-- `s_j - g`: the cycles from `TxStart` to the start of bit `j` (R127). -/
def bitStart (c : Config) (t : Telegram) (len j : Nat) : Nat :=
  c.settle + ((List.range j).map fun k => 2 * c.half (lineBit t len k)).sum

/-- The transmitter as `TxStart` leaves it (R126). -/
def started (c : Config) (t : Telegram) (len : Nat) (o : Owner) : Transmitter where
  owner := o
  state := .settle
  frame := t
  len := BitVec.ofNat 7 len
  idx := BitVec.ofNat 6 (len - 1)
  cnt := c.settle

/-- The transmitter `n` steps after it was `t` (R125). -/
def txAfter (c : Config) (t : Transmitter) : Nat → Transmitter
  | 0 => t
  | n + 1 => txNext c (txAfter c t n)

/-- A down counter `n` steps after it was `cnt` (R162). -/
def tickAfter (cnt period : Nat) : Nat → Nat
  | 0 => cnt
  | n + 1 => (tickFires (tickAfter cnt period n) period).2

/-! ### Elements that hold no value -/

/-- Two senders agree in every element that holds a value: the frame only while it waits, the tick only once startup is
done (R27, R37). -/
def SenderAgree (done : Bool) (d e : Sender) : Prop :=
  d.state = e.state ∧ (d.state = .wait → d.frame = e.frame) ∧ (done = true → d.tick = e.tick)

/-- Two states agree in every element to which R37 gives a value: they may differ in `tx.frame`, `tx.len`, `tx.idx`, `tx.cnt`
while the transmitter is idle, in a frame no requester waits with, and in the ticks before startup is done (U6). -/
def Agree (s t : State) : Prop :=
  s.cfg = t.cfg ∧ s.slots = t.slots ∧ s.queue = t.queue ∧ s.cmdch = t.cmdch ∧ s.ackch = t.ackch
  ∧ List.Forall₂ (SenderAgree s.su.done) s.snd t.snd
  ∧ SenderAgree s.su.done s.drn t.drn
  ∧ s.su = t.su ∧ s.arbLast = t.arbLast
  ∧ (s.tx.owner = t.tx.owner ∧ s.tx.state = t.tx.state ∧ (s.tx.state ≠ .idle → s.tx = t.tx))
  ∧ s.stopReq = t.stopReq ∧ s.halted = t.halted ∧ s.errOut = t.errOut ∧ s.env = t.env

end Sys2Proof.Safety
end

