-- ==== Sys2Proof/Certificates/Slice0/Obligations.lean ====
section
/-! DEFINITION. The statements about the machine, for the provers. Each docstring says which rule of spec/ it formalises. -/

section

open Sys2Proof Sys2Proof.Machine Sys2Proof.Safety

/-! ### Encodings -/

/-- R73 to R81, R85, R110: decoding undoes encoding, for every instruction and every value of its fields. -/
def Obligations.DecodeUndoesEncode : Prop := ∀ i : Instr, decode i.format (encode i) = .ok i

/-- No bit of an accepted code is dropped: encoding undoes decoding in all three formats (R70). -/
def Obligations.EncodeUndoesDecode : Prop :=
  ∀ (f : Format) (c : Code) (i : Instr), decode f c = .ok i → i.format = f ∧ encode i = c

/-- Words written out from the layouts of R73, R74, R77, R78, R104 and R105 (vectors V-D1, V-E3, V-E4, V-C3). -/
def Obligations.SampleWordsDecode : Prop :=
  decodeCommand 0x20E7#16 = .cmdLoco 0#1 3#7 1#1 0#1 7#4
  ∧ decodeCommand 0xA0E7#16 = .cmdLoco 1#1 3#7 1#1 0#1 7#4
  ∧ decodeCommand 0x405D#16 = .cmdAcc 0#1 5#9 1#1 2#2 1#1
  ∧ decodeCommand 0x1FFF#16 = .cmdBad00 0#1 0x1FFF#13
  ∧ decodeCommand 0xE123#16 = .cmdBad11 1#1 0x0123#13
  ∧ decodeAck 0xA0E7#16 = .ok (.ackLoco 3#7 1#1 0#1 7#4)
  ∧ decodeAck 0xC05D#16 = .ok (.ackAcc 5#9 1#1 2#2 1#1)
  ∧ decodeTelegram 0x000003FFF0199CC9#64 = .ok (.tgLoco 3#7 1#1 0#1 7#4 0x64#8)
  ∧ decodeTelegram 0x000003FFF42BF4F1#64 = .ok (.tgAcc 5#9 1#1 2#2 1#1 0x78#8)
  ∧ decodeTelegram 0x000003FFF7F801FF#64 = .ok .tgIdle
  ∧ decodeTelegram 0x000003FFF0000001#64 = .ok .tgReset

/-- R72, R90: the map of command words by `w[14:13]`, as mask and match. -/
def Obligations.CommandMapFollowsTheTypeField : Prop :=
  ∀ w : Word,
    (w &&& 0x6000#16 = 0x2000#16 ↔
      decodeCommand w = .cmdLoco (ackBit w) (locoAddr w) (locoDir w) (locoLight w) (locoSpeed w))
    ∧ (w &&& 0x6000#16 = 0x4000#16 ↔
      decodeCommand w = .cmdAcc (ackBit w) (accAddr w) (accCtl w) (accDev w) (accEn w))
    ∧ (w &&& 0x6000#16 = 0x0000#16 ↔ decodeCommand w = .cmdBad00 (ackBit w) (payload w))
    ∧ (w &&& 0x6000#16 = 0x6000#16 ↔ decodeCommand w = .cmdBad11 (ackBit w) (payload w))

/-- R83: the four telegram kinds are told apart by fixed bits and the checksum; what decodes to a well-formed telegram of a
kind is exactly what matches that kind's row, and every telegram the codec makes matches the first row. -/
def Obligations.TelegramKindsAreTheTableRows : Prop :=
  (∀ t : Telegram,
    let checksum := checkByteOf t = addrByteOf t ^^^ cmdByteOf t
    ((∃ addr dir light speed x, decodeTelegram t = .ok (.tgLoco addr dir light speed x)
        ∧ (Instr.tgLoco addr dir light speed x).wellFormed = true)
      ↔ t &&& 0xFFFFFFFFFC070201#64 = 0x000003FFF0010001#64 ∧ checksum)
    ∧ ((∃ addr ctl dev en x, decodeTelegram t = .ok (.tgAcc addr ctl dev en x)
        ∧ (Instr.tgAcc addr ctl dev en x).wellFormed = true)
      ↔ t &&& 0xFFFFFFFFFE060201#64 = 0x000003FFF4020001#64 ∧ checksum)
    ∧ (decodeTelegram t = .ok .tgIdle ↔ t = 0x000003FFF7F801FF#64)
    ∧ (decodeTelegram t = .ok .tgReset ↔ t = 0x000003FFF0000001#64))
  ∧ ∀ a c : Byte,
    (pack a c).1 &&& 0xFFFFFFFFF8040201#64 = 0x000003FFF0000001#64
    ∧ checkByteOf (pack a c).1 = addrByteOf (pack a c).1 ^^^ cmdByteOf (pack a c).1

/-! ### The codec -/

/-- R107: the fixed-field and checksum invariants of every telegram the codec returns, with its length. -/
def Obligations.TelegramFixedFieldsAndChecksum : Prop :=
  ∀ a c : Byte,
    let t := (pack a c).1
    t.extractLsb' 28 14 = 0x3FFF#14
    ∧ t.getLsbD 27 = false ∧ t.getLsbD 18 = false ∧ t.getLsbD 9 = false
    ∧ t.getLsbD 0 = true
    ∧ t.extractLsb' 1 8 = t.extractLsb' 19 8 ^^^ t.extractLsb' 10 8
    ∧ t.extractLsb' 42 22 = 0#22
    ∧ (pack a c).2 = 42

/-- R109: the ones-count law; the count is odd and between 15 and 31. -/
def Obligations.TelegramOnesCount : Prop :=
  ∀ a c : Byte,
    let ones := popcount ((pack a c).1.extractLsb' 0 42)
    ones = 15 + 2 * popcount (a ||| c)
    ∧ 42 - ones = 27 - 2 * popcount (a ||| c)
    ∧ ones % 2 = 1 ∧ 15 ≤ ones ∧ ones ≤ 31

/-- R110: decoding a command word and encoding its fields loses no field; the telegram decodes back to them. -/
def Obligations.CommandWordToTelegramLosesNoField : Prop :=
  ∀ w : Word,
    (typeField w = 1#2 →
      decodeTelegram (encodeLocomotive (locoAddr w) (locoSpeed w) (locoDir w) (locoLight w)).1
        = .ok (.tgLoco (locoAddr w) (locoDir w) (locoLight w) (locoSpeed w)
            (locoAddrByte (locoAddr w) ^^^ locoCmdByte (locoDir w) (locoLight w) (locoSpeed w))))
    ∧ (typeField w = 2#2 →
      decodeTelegram (encodeAccessory (accAddr w) (accDev w) (accCtl w) (accEn w)).1
        = .ok (.tgAcc (accAddr w) (accCtl w) (accDev w) (accEn w)
            (accAddrByte (accAddr w) ^^^ accCmdByte (accAddr w) (accCtl w) (accDev w) (accEn w))))

/-! ### Command words -/

/-- R192, R197: a locomotive command for a configured address writes the slot that has it and pushes the acknowledgement;
nothing else changes. -/
def Obligations.LocoCommandWritesSlotAndAcknowledges : Prop :=
  ∀ (s : State) (ack : BitVec 1) (addr : BitVec 7) (dir light : BitVec 1) (speed : BitVec 4) (i : Nat) (r : Slot),
    s.slots[i]? = some r → r.addr = addr →
    (∀ (j : Nat) (q : Slot), j < i → s.slots[j]? = some q → q.addr ≠ addr) →
    s.ackch.length + 2 ≤ s.cfg.chanCapBytes →
    exec (.cmdLoco ack addr dir light speed) s
      = .next { s with
          slots := s.slots.set i { addr := addr, speed := speed, dir := dir, light := light }
          ackch := s.ackch ++ wordBytes (locoWord addr speed dir light ack ||| 0x8000#16) }

/-- R193: a locomotive command for an address no slot has only raises `UnknownLocomotiveAddress`. -/
def Obligations.LocoCommandUnknownAddress : Prop :=
  ∀ (s : State) (ack : BitVec 1) (addr : BitVec 7) (dir light : BitVec 1) (speed : BitVec 4),
    (∀ r ∈ s.slots, r.addr ≠ addr) →
    exec (.cmdLoco ack addr dir light speed) s
      = .next { s with
          errOut := some { kind := .unknownLocomotiveAddress, word := locoWord addr speed dir light ack } }

/-- R195, R146: an accessory command whose key is queued updates that entry where it stands, also in a full queue, and is
acknowledged. -/
def Obligations.AccCommandUpdatesInPlace : Prop :=
  ∀ (s : State) (ack : BitVec 1) (addr : BitVec 9) (ctl : BitVec 1) (dev : BitVec 2) (en : BitVec 1) (j : Nat)
    (e : AccEntry),
    s.queue[j]? = some e → e.addr = addr → e.dev = dev →
    (∀ (k : Nat) (f : AccEntry), k < j → s.queue[k]? = some f → ¬(f.addr = addr ∧ f.dev = dev)) →
    s.ackch.length + 2 ≤ s.cfg.chanCapBytes →
    exec (.cmdAcc ack addr ctl dev en) s
      = .next { s with
          queue := s.queue.set j { addr := addr, dev := dev, ctl := ctl, en := en }
          ackch := s.ackch ++ wordBytes (accWord addr dev ctl en ack ||| 0x8000#16) }

/-- R195, R146: an accessory command whose key is not queued is appended while there is room, and acknowledged. -/
def Obligations.AccCommandAppends : Prop :=
  ∀ (s : State) (ack : BitVec 1) (addr : BitVec 9) (ctl : BitVec 1) (dev : BitVec 2) (en : BitVec 1),
    (∀ f ∈ s.queue, ¬(f.addr = addr ∧ f.dev = dev)) → s.queue.length < s.cfg.accQDepth →
    s.ackch.length + 2 ≤ s.cfg.chanCapBytes →
    exec (.cmdAcc ack addr ctl dev en) s
      = .next { s with
          queue := s.queue ++ [{ addr := addr, dev := dev, ctl := ctl, en := en }]
          ackch := s.ackch ++ wordBytes (accWord addr dev ctl en ack ||| 0x8000#16) }

/-- R196: an accessory command whose key is not queued only raises `AccessoryQueueFull` when the queue is full. -/
def Obligations.AccCommandQueueFull : Prop :=
  ∀ (s : State) (ack : BitVec 1) (addr : BitVec 9) (ctl : BitVec 1) (dev : BitVec 2) (en : BitVec 1),
    (∀ f ∈ s.queue, ¬(f.addr = addr ∧ f.dev = dev)) → s.cfg.accQDepth ≤ s.queue.length →
    exec (.cmdAcc ack addr ctl dev en) s
      = .next { s with errOut := some { kind := .accessoryQueueFull, word := accWord addr dev ctl en ack } }

/-- R194: a command word of type 0 or 3 only raises `UnknownMessageType`, whatever its other bits hold. -/
def Obligations.BadTypeRaisesUnknownMessageType : Prop :=
  ∀ (s : State) (ack : BitVec 1) (body : BitVec 13),
    exec (.cmdBad00 ack body) s
      = .next { s with errOut := some { kind := .unknownMessageType, word := ack ++ 0#2 ++ body } }
    ∧ exec (.cmdBad11 ack body) s
      = .next { s with errOut := some { kind := .unknownMessageType, word := ack ++ 3#2 ++ body } }

/-- R197, C8: when the acknowledgement channel has fewer than two free bytes the command still takes effect, its
acknowledgement is lost and `ChannelTransportError` is raised; for an update, an append and a slot write. -/
def Obligations.LostAcknowledgementKeepsTheUpdate : Prop :=
  ∀ s : State, s.cfg.chanCapBytes < s.ackch.length + 2 →
    (∀ (ack : BitVec 1) (addr : BitVec 7) (dir light : BitVec 1) (speed : BitVec 4) (i : Nat) (r : Slot),
      s.slots[i]? = some r → r.addr = addr →
      (∀ (j : Nat) (q : Slot), j < i → s.slots[j]? = some q → q.addr ≠ addr) →
      exec (.cmdLoco ack addr dir light speed) s
        = .next { s with
            slots := s.slots.set i { addr := addr, speed := speed, dir := dir, light := light }
            errOut := some { kind := .channelTransportError, word := locoWord addr speed dir light ack } })
    ∧ (∀ (ack : BitVec 1) (addr : BitVec 9) (ctl : BitVec 1) (dev : BitVec 2) (en : BitVec 1) (j : Nat) (e : AccEntry),
      s.queue[j]? = some e → e.addr = addr → e.dev = dev →
      (∀ (k : Nat) (f : AccEntry), k < j → s.queue[k]? = some f → ¬(f.addr = addr ∧ f.dev = dev)) →
      exec (.cmdAcc ack addr ctl dev en) s
        = .next { s with
            queue := s.queue.set j { addr := addr, dev := dev, ctl := ctl, en := en }
            errOut := some { kind := .channelTransportError, word := accWord addr dev ctl en ack } })
    ∧ (∀ (ack : BitVec 1) (addr : BitVec 9) (ctl : BitVec 1) (dev : BitVec 2) (en : BitVec 1),
      (∀ f ∈ s.queue, ¬(f.addr = addr ∧ f.dev = dev)) → s.queue.length < s.cfg.accQDepth →
      exec (.cmdAcc ack addr ctl dev en) s
        = .next { s with
            queue := s.queue ++ [{ addr := addr, dev := dev, ctl := ctl, en := en }]
            errOut := some { kind := .channelTransportError, word := accWord addr dev ctl en ack } })

/-- R77, R197: an acknowledgement word is pushed with its low byte first, or `ChannelTransportError` is raised where the
channel has no two free bytes; the `SendAck` of a command word pushes the word its acknowledgement form stands for. The
error's word is the acknowledgement word itself: the model's reading (log 6). -/
def Obligations.AcknowledgementIsPushedOrLost : Prop :=
  (∀ (s : State) (i : Instr) (w : Word),
    ((∃ addr dir light speed, i = .ackLoco addr dir light speed ∧ w = 0b101#3 ++ addr ++ dir ++ light ++ speed)
      ∨ (∃ addr ctl dev en, i = .ackAcc addr ctl dev en ∧ w = 0b110#3 ++ addr ++ ctl ++ dev ++ en)) →
    (s.ackch.length + 2 ≤ s.cfg.chanCapBytes →
      exec i s = .next { s with ackch := s.ackch ++ [w.extractLsb' 0 8, w.extractLsb' 8 8] })
    ∧ (s.cfg.chanCapBytes < s.ackch.length + 2 →
      exec i s = .next { s with errOut := some { kind := .channelTransportError, word := w } }))
  ∧ ∀ (s : State) (w : Word), s.ackch.length + 2 ≤ s.cfg.chanCapBytes →
    (typeField w = 1#2 →
      exec (.ackLoco (locoAddr w) (locoDir w) (locoLight w) (locoSpeed w)) s = .next (sendAck w s))
    ∧ (typeField w = 2#2 →
      exec (.ackAcc (accAddr w) (accCtl w) (accDev w) (accEn w)) s = .next (sendAck w s))

/-- R198: every word ends in exactly one of a store update with an acknowledgement, a store update with
`ChannelTransportError`, or one of the other three block-side errors with nothing else changed; whichever it is, only the
slots, the queue, the acknowledgement channel and the error output can change. -/
def Obligations.EveryWordHasOneOfThreeOutcomes : Prop :=
  ∀ (s : State) (w : Word), ∃ t : State, exec (decodeCommand w) s = .next t
    ∧ t = { s with slots := t.slots, queue := t.queue, ackch := t.ackch, errOut := t.errOut }
    ∧ ((t.ackch = s.ackch ++ wordBytes (ackWord w) ∧ t.errOut = s.errOut)
      ∨ (t.ackch = s.ackch ∧ t.errOut = some { kind := .channelTransportError, word := w })
      ∨ ∃ k : ErrKind, (k = .unknownMessageType ∨ k = .unknownLocomotiveAddress ∨ k = .accessoryQueueFull)
          ∧ t = { s with errOut := some { kind := k, word := w } })

/-- R86: bit 15 of a command word has no effect on the store, and the acknowledgement is the same. -/
def Obligations.BitFifteenIsIgnored : Prop :=
  ∀ (s : State) (w : Word), ∃ t u : State,
    exec (decodeCommand w) s = .next t ∧ exec (decodeCommand (w ^^^ 0x8000#16)) s = .next u
    ∧ t.slots = u.slots ∧ t.queue = u.queue ∧ t.ackch = u.ackch
    ∧ ackWord w = ackWord (w ^^^ 0x8000#16)

/-! ### Telegrams -/

/-- R169, R171, R126: during startup the sequencer's Reset telegram, and after the last of them its Idle telegram, is granted
the idle line. That executing a telegram is this grant is the model's reading (log 4). -/
def Obligations.StartupTelegramsAreGranted : Prop :=
  ∀ s : State, s.tx.state = .idle → s.stopReq = false → s.su.done = false →
    (s.su.resetLeft ≠ 0#8 →
      exec .tgReset s = .next { s with tx :=
        { owner := .su, state := .settle, frame := 0x000003FFF0000001#64, len := 42#7, idx := 41#6
          cnt := s.cfg.settle } })
    ∧ (s.su.resetLeft = 0#8 → s.su.idleLeft ≠ 0#8 →
      exec .tgIdle s = .next { s with tx :=
        { owner := .su, state := .settle, frame := 0x000003FFF7F801FF#64, len := 42#7, idx := 41#6
          cnt := s.cfg.settle } })

/-- R171, R126: a locomotive telegram is granted the idle line when the sender whose turn it is waits with it. That executing
a telegram is this grant is the model's reading (log 4). -/
def Obligations.LocomotiveTelegramIsGranted : Prop :=
  ∀ (s : State) (addr : BitVec 7) (dir light : BitVec 1) (speed : BitVec 4) (x : Byte) (i : Nat) (d : Sender),
    s.tx.state = .idle → s.stopReq = false → s.su.done = true →
    roundRobinPick s = some i → i < s.cfg.numLoco → s.snd[i]? = some d →
    d.frame = telegramOf (0#1 ++ addr) (1#2 ++ dir ++ light ++ speed) x →
    exec (.tgLoco addr dir light speed x) s = .next { s with
      snd := s.snd.set i { d with state := .tx }
      arbLast := i
      tx := { owner := .loco i, state := .settle, frame := d.frame, len := 42#7, idx := 41#6
              cnt := s.cfg.settle } }

/-- R171, R126: an accessory telegram is granted the idle line when it is the drain's turn and the drain waits with it. That
executing a telegram is this grant is the model's reading (log 4). -/
def Obligations.AccessoryTelegramIsGranted : Prop :=
  ∀ (s : State) (addr : BitVec 9) (ctl : BitVec 1) (dev : BitVec 2) (en : BitVec 1) (x : Byte),
    s.tx.state = .idle → s.stopReq = false → s.su.done = true →
    roundRobinPick s = some s.cfg.numLoco →
    s.drn.frame = telegramOf (2#2 ++ addr.extractLsb' 0 6) (1#1 ++ ~~~(addr.extractLsb' 6 3) ++ ctl ++ dev ++ en) x →
    exec (.tgAcc addr ctl dev en x) s = .next { s with
      drn := { s.drn with state := .tx }
      arbLast := s.cfg.numLoco
      tx := { owner := .drain, state := .settle, frame := s.drn.frame, len := 42#7, idx := 41#6
              cnt := s.cfg.settle } }

/-- Log 4 (the model's reading of R120, R133): a telegram that is not the one the arbiter would grant changes nothing. -/
def Obligations.UngrantedTelegramChangesNothing : Prop :=
  ∀ (s : State) (i : Instr) (t : Telegram), encode i = .t64 t → (∀ o, offered s ≠ some (o, t)) → exec i s = .next s

/-- R171: the arbiter's sub-step grants the telegram offered, whatever its bits, and nothing else: where nothing is offered it
changes nothing, and nothing is offered on a busy line, after a stop request, when startup wants nothing and when nobody waits.
That the grant is the execution of the instruction the telegram decodes to is the model's reading (log 4), as is that bits
which decode to no row are sent all the same (log 8). -/
def Obligations.ArbiterGrantsTheOfferedTelegram : Prop :=
  (∀ (s : State) (o : Owner) (t : Telegram), offered s = some (o, t) →
    arbitrate s = .next ((claim o s).setTx (started s.cfg t 42 o))
    ∧ ∀ i, decodeTelegram t = .ok i → arbitrate s = exec i s)
  ∧ (∀ s : State, offered s = none → arbitrate s = .next s)
  ∧ ∀ s : State,
    s.tx.state ≠ .idle ∨ s.stopReq = true
      ∨ (s.su.done = false ∧ s.su.resetLeft = 0#8 ∧ s.su.idleLeft = 0#8)
      ∨ (s.su.done = true ∧ ∀ p, p ≤ s.cfg.numLoco → waiting s p = false) →
    offered s = none ∧ arbitrate s = .next s

/-! ### Store and channels -/

/-- R56, R57, R54: a push appends the low byte and then the high byte when two bytes are free and otherwise changes nothing;
a pop returns the oldest two bytes as a word. -/
def Obligations.ChannelMovesWholeWords : Prop :=
  (∀ (cap : Nat) (ch : List Byte) (w : Word),
    (2 ≤ cap - ch.length → chanPushWord cap ch w = some (ch ++ [w.extractLsb' 0 8, w.extractLsb' 8 8]))
    ∧ (cap - ch.length < 2 → chanPushWord cap ch w = none))
  ∧ (∀ (ch : List Byte) (w : Word),
    chanPopWord ([w.extractLsb' 0 8, w.extractLsb' 8 8] ++ ch) = some (w, ch))
  ∧ ∀ ch : List Byte, ch.length < 2 → chanPopWord ch = none

/-- R58: words leave a channel in the order they entered. -/
def Obligations.ChannelIsFirstInFirstOut : Prop :=
  ∀ (ch ch' : List Byte) (w : Word) (cap : Nat), chanPushWord cap ch w = some ch' →
    (ch = [] → chanPopWord ch' = some (w, []))
    ∧ ∀ (v : Word) (rest : List Byte), chanPopWord ch = some (v, rest) →
        chanPopWord ch' = some (v, rest ++ wordBytes w)

/-- R140: the scan finds the first slot with the address, and nothing where no slot has it. -/
def Obligations.LookupFindsTheConfiguredSlot : Prop :=
  ∀ (s : State) (addr : BitVec 7),
    (∀ i, lookup addr s = some i ↔
      (∃ r, s.slots[i]? = some r ∧ r.addr = addr)
      ∧ ∀ (j : Nat) (q : Slot), j < i → s.slots[j]? = some q → q.addr ≠ addr)
    ∧ (lookup addr s = none ↔ ∀ r ∈ s.slots, r.addr ≠ addr)

/-- R141, R142, R61: a slot write sets the three fields of its slot, keeps its address and every other slot, and twice is the
same as once. -/
def Obligations.SlotWriteChangesOneSlot : Prop :=
  ∀ (s : State) (i : Nat) (r : Slot) (speed : BitVec 4) (dir light : BitVec 1), slotRead i s = some r →
    let t := slotWrite i speed dir light s
    slotRead i t = some { addr := r.addr, speed := speed, dir := dir, light := light }
    ∧ (∀ j, j ≠ i → slotRead j t = slotRead j s)
    ∧ slotWrite i speed dir light t = t

/-- R148: distinct keys A, B, C enqueued into an empty queue leave it in that order. For every queue, an enqueue appends at the
back or keeps the keys where they stand (an update) or changes nothing (a full queue), and a dequeue takes the front: so
entries leave in the order in which their keys were appended, whatever updates they received while queued. -/
def Obligations.QueueIsFirstInFirstOut : Prop :=
  (∀ (depth : Nat) (a b c : AccEntry), 3 ≤ depth →
    entryKey a ≠ entryKey b → entryKey a ≠ entryKey c → entryKey b ≠ entryKey c →
    let q := (qEnqueueOrUpdate depth c (qEnqueueOrUpdate depth b (qEnqueueOrUpdate depth a []).2).2).2
    qDequeueFront q = some (a, [b, c]) ∧ qDequeueFront [b, c] = some (b, [c]))
  ∧ (∀ (depth : Nat) (e : AccEntry) (q : List AccEntry),
    ((qEnqueueOrUpdate depth e q).1 = .updated → (qEnqueueOrUpdate depth e q).2.map entryKey = q.map entryKey)
    ∧ ((qEnqueueOrUpdate depth e q).1 = .appended → (qEnqueueOrUpdate depth e q).2 = q ++ [e])
    ∧ ((qEnqueueOrUpdate depth e q).1 = .full → (qEnqueueOrUpdate depth e q).2 = q))
  ∧ (∀ (e : AccEntry) (rest : List AccEntry), qDequeueFront (e :: rest) = some (e, rest))
  ∧ qDequeueFront [] = none

/-! ### The transmitter -/

/-- R127: the exact waveform of a transmission, `n` steps after its `TxStart`: low for the settle interval, then each bit high
for its half-period and low for its half-period, then `END`, then idle with the line released. -/
def Obligations.WaveformIsExact : Prop :=
  ∀ (c : Config) (t : Telegram) (len : Nat) (o : Owner), c.legal = true → 1 ≤ len → len ≤ 64 →
    let later := txAfter c (started c t len o)
    (∀ n, n < c.settle → (later n).state = .settle)
    ∧ (∀ j n, j < len → bitStart c t len j ≤ n → n < bitStart c t len j + c.half (lineBit t len j) →
        (later n).state = .hi ∧ (later n).idx.toNat = len - 1 - j)
    ∧ (∀ j n, j < len → bitStart c t len j + c.half (lineBit t len j) ≤ n →
        n < bitStart c t len j + 2 * c.half (lineBit t len j) →
        (later n).state = .lo ∧ (later n).idx.toNat = len - 1 - j)
    ∧ (later (bitStart c t len len)).state = .ending
    ∧ (later (bitStart c t len len + 1)).state = .idle ∧ (later (bitStart c t len len + 1)).owner = .none

/-- R128: how long a 42-bit telegram keeps the line busy, in general and at the reference timing. -/
def Obligations.TelegramDuration : Prop :=
  ∀ (c : Config) (a b : Byte),
    let n1 := 15 + 2 * popcount (a ||| b)
    bitStart c (pack a b).1 42 42 = c.settle + 2 * c.h1 * n1 + 2 * c.h0 * (42 - n1)
    ∧ (c.h1 = 58 → c.h0 = 100 → c.settle = 500 →
        bitStart c (pack a b).1 42 42 = 7640 - 168 * popcount (a ||| b)
        ∧ 6296 ≤ bitStart c (pack a b).1 42 42 ∧ bitStart c (pack a b).1 42 42 ≤ 7640)

/-- R129: a length of 0 or above 64 is refused; every other length starts a transmission of that many bits. -/
def Obligations.TransmitLengthIsBounded : Prop :=
  ∀ (s : State) (t : Telegram) (len : Nat),
    (len = 0 ∨ 64 < len → txStart t len s = .refused .txLength)
    ∧ (1 ≤ len → len ≤ 64 → txStart t len s = .next (s.setTx (started s.cfg t len s.tx.owner)))

/-- R130: a transmission in flight advances by the transmitter's own rule alone; no input but reset, no host action and no
stop request cuts it short or changes its bits. -/
def Obligations.TransmissionIsNeverCutShort : Prop :=
  ∀ s t : State, NoReset s → s.halted = false → s.tx.state ≠ .idle → s.tx.state ≠ .ending →
    step s = .next t → t.tx = txNext s.cfg s.tx

/-- R32, R35, R231, R244: the outputs as functions of the state: the line is high when halted and otherwise low exactly in
`SETTLE` and `LO`; the error ports show the event of the step, and code 0 where there is none. -/
def Obligations.OutputsFollowTheState : Prop :=
  ∀ s : State,
    (s.halted = true → dccOut s = true)
    ∧ (s.halted = false → (dccOut s = false ↔ s.tx.state = .settle ∨ s.tx.state = .lo))
    ∧ statusStartupDone s = s.su.done ∧ statusHalted s = s.halted
    ∧ (s.errOut = none → errValid s = false ∧ errCode s = 0#3 ∧ errWord s = none)
    ∧ ∀ e : ErrEvent, s.errOut = some e →
      errValid s = true ∧ errWord s = some e.word
      ∧ (e.kind = .unknownMessageType → errCode s = 1#3)
      ∧ (e.kind = .unknownLocomotiveAddress → errCode s = 2#3)
      ∧ (e.kind = .accessoryQueueFull → errCode s = 3#3)
      ∧ (e.kind = .channelTransportError → errCode s = 4#3)

/-! ### Scheduling -/

/-- R162: a tick counter loaded with its phase fires first after `phase` steps and then every `period` steps. -/
def Obligations.TicksFireEveryPeriod : Prop :=
  ∀ phase period n : Nat, 1 ≤ period →
    ((tickFires (tickAfter phase period n) period).1 = true ↔ phase ≤ n ∧ (n - phase) % period = 0)

/-- R163, R175, R63: at its tick a sleeping sender takes the slot as it stands before this step's handler write, encodes it
and waits or is granted; its frame is that telegram at the end of the step. -/
def Obligations.SenderTickTakesTheSlotBeforeTheHandler : Prop :=
  ∀ (s t : State) (i : Nat) (l : LocoCfg) (r : Slot) (d : Sender), NoReset s → s.halted = false →
    s.su.done = true → (atEdge s).stopReq = false →
    s.cfg.locos[i]? = some l → s.slots[i]? = some r → s.snd[i]? = some d →
    d.state = .sleep → d.tick = 0 → s.tx.owner ≠ .su → step s = .next t →
    ∃ e, t.snd[i]? = some e ∧ (e.state = .wait ∨ e.state = .tx)
      ∧ e.frame = (encodeLocomotive r.addr r.speed r.dir r.light).1 ∧ e.tick = l.period - 1

/-- R164: a tick that fires outside `SLEEP` is lost: the unit keeps its state and frame, and its counter is reloaded. -/
def Obligations.BusyUnitLosesItsTick : Prop :=
  (∀ (l : LocoCfg) (r : Slot) (d : Sender), d.state ≠ .sleep → d.tick = 0 →
    senderTick l r d = { d with tick := l.period - 1 })
  ∧ ∀ s : State, s.drn.state ≠ .sleep → s.drn.tick = 0 →
    drainTick s = { s with drn := { s.drn with tick := s.cfg.accPeriod - 1 } }

/-- R165, R166: at its tick a sleeping drain takes the head entry out of the queue and encodes it; with an empty queue it
stays asleep. -/
def Obligations.DrainTickSendsTheOldestEntry : Prop :=
  ∀ s : State, s.drn.state = .sleep → s.drn.tick = 0 →
    (∀ (e : AccEntry) (rest : List AccEntry), s.queue = e :: rest →
      drainTick s = { s with
        queue := rest
        drn := { state := .wait, frame := (encodeAccessory e.addr e.dev e.ctl e.en).1, tick := s.cfg.accPeriod - 1 } })
    ∧ (s.queue = [] → drainTick s = { s with drn := { s.drn with tick := s.cfg.accPeriod - 1 } })

/-- R172: the pick is the first requester in `WAIT` in the cyclic order after the one granted last; there is none exactly when
no requester waits. -/
def Obligations.RoundRobinPicksTheNextWaiting : Prop :=
  ∀ s : State,
    let n := s.cfg.numLoco
    let r := fun k => (s.arbLast + k) % (n + 1)
    (∀ p, roundRobinPick s = some p ↔
      ∃ k, 1 ≤ k ∧ k ≤ n + 1 ∧ p = r k ∧ waiting s p = true ∧ ∀ m, 1 ≤ m → m < k → waiting s (r m) = false)
    ∧ (roundRobinPick s = none ↔ ∀ p, p ≤ n → waiting s p = false)

/-- R173: a requester in `WAIT`, sender or drain, keeps its frame and waits until its telegram is granted the line. -/
def Obligations.WaitingSenderKeepsItsFrame : Prop :=
  ∀ s t : State, LineOk s → NoReset s → step s = .next t →
    (∀ (i : Nat) (d : Sender), s.snd[i]? = some d → d.state = .wait →
      ∃ e, t.snd[i]? = some e ∧ e.frame = d.frame
        ∧ (e.state = .wait
          ∨ (e.state = .tx ∧ t.tx.owner = .loco i ∧ t.tx.frame = d.frame ∧ t.tx.state = .settle ∧ t.arbLast = i)))
    ∧ (s.drn.state = .wait →
      t.drn.frame = s.drn.frame
      ∧ (t.drn.state = .wait
        ∨ (t.drn.state = .tx ∧ t.tx.owner = .drain ∧ t.tx.frame = s.drn.frame ∧ t.tx.state = .settle
          ∧ t.arbLast = s.cfg.numLoco)))

/-- R167, R169: the completion that ends the startup sequence sets `su.done` and loads every tick counter with its phase; any
other one only counts one telegram off. After a stop request every one only counts its telegram off, and `su.done` stays as it
is: D33 before R169's pseudocode is the model's reading (log 16). -/
def Obligations.StartupEndLoadsThePhases : Prop :=
  ∀ s : State, s.snd.length = s.cfg.numLoco →
    (s.su.resetLeft.toNat + s.su.idleLeft.toNat = 1 → s.stopReq = false →
      complete .su s = { s with
        su := { resetLeft := 0, idleLeft := 0, done := true }
        snd := s.snd.zipWith (fun d l => { d with tick := l.phase }) s.cfg.locos
        drn := { s.drn with tick := s.cfg.accPhase } })
    ∧ (s.su.resetLeft.toNat + s.su.idleLeft.toNat = 1 → s.stopReq = true →
      complete .su s = { s with su := { resetLeft := 0, idleLeft := 0, done := s.su.done } })
    ∧ (1 < s.su.resetLeft.toNat + s.su.idleLeft.toNat →
      complete .su s = { s with
        su := if s.su.resetLeft = 0#8 then { s.su with idleLeft := s.su.idleLeft - 1 }
              else { s.su with resetLeft := s.su.resetLeft - 1 } })

/-- R170, R33: every step leaves at most one requester on the line: no two senders in `TX`, no sender in `TX` beside the drain,
and none of them while the startup sequencer owns the line. -/
def Obligations.LineHasOneOwner : Prop :=
  ∀ s t : State, Inv s → step s = .next t →
    (∀ i j, SenderIn t i .tx → SenderIn t j .tx → i = j)
    ∧ (∀ i, SenderIn t i .tx → t.drn.state ≠ .tx)
    ∧ (t.tx.owner = .su → t.drn.state ≠ .tx ∧ ∀ i, ¬SenderIn t i .tx)

/-- R174: when a transmission ends and a requester waits, the next settle interval starts in the same step. -/
def Obligations.TelegramsGoOutBackToBack : Prop :=
  ∀ (s t : State) (p : Nat), Inv s → NoReset s → (atEdge s).stopReq = false → s.tx.state = .ending → s.su.done = true →
    p ≤ s.cfg.numLoco → waiting s p = true → step s = .next t →
    t.tx.state = .settle ∧ t.tx.cnt = s.cfg.settle

/-! ### Teardown -/

/-- R177, R178, R161: after a stop request the block only lets its transmitter run to the end and then halts; once halted it
changes nothing. Said of the block's step and of the machine's, which is the block's at the clock edge: the host's turn and the
sample of `rst` before it are the model's form (log 7). In such a step `su.done` and every tick counter stay as they are, also
when the last startup telegram ends in it: D33 before R169's pseudocode is the model's reading (log 16). -/
def Obligations.StoppedBlockOnlyFinishesItsTelegram : Prop :=
  (∀ s : State,
    (s.halted = true → blockStep s = .next s)
    ∧ (s.halted = false → s.stopReq = true →
        blockStep s = .next
          (if (txAdvance s).tx.state = .idle then (txAdvance s).setHalted true else txAdvance s)))
  ∧ ∀ s : State, s.cfg.legal = true → NoReset s →
    ((atEdge s).halted = true → step s = .next (atEdge s))
    ∧ ((atEdge s).halted = false → (atEdge s).stopReq = true →
        step s = .next
          (if (txAdvance (atEdge s)).tx.state = .idle then (txAdvance (atEdge s)).setHalted true
           else txAdvance (atEdge s))
        ∧ (txAdvance (atEdge s)).su.done = s.su.done
        ∧ (txAdvance (atEdge s)).snd.map Sender.tick = s.snd.map Sender.tick
        ∧ (txAdvance (atEdge s)).drn.tick = s.drn.tick)

/-- R34: a stop request and the halted state are left by reset alone. -/
def Obligations.OnlyResetLeavesTheStop : Prop :=
  ∀ s t : State, NoReset s → step s = .next t →
    (s.stopReq = true → t.stopReq = true) ∧ (s.halted = true → t.halted = true)

/-! ### Host -/

/-- R211, R212, R213, R179: the host's write, read and stop. -/
def Obligations.HostActions : Prop :=
  ∀ (s : State) (w : Word),
    (s.halted = true →
      hostWrite w s = (.failed { kind := .channelTransportError, word := w }, s) ∧ hostRead s = (.noData, s))
    ∧ (s.halted = false → s.cmdch.length + 2 ≤ s.cfg.chanCapBytes →
      hostWrite w s = (.ok, { s with cmdch := s.cmdch ++ wordBytes w }))
    ∧ (s.halted = false → s.cfg.chanCapBytes < s.cmdch.length + 2 →
      hostWrite w s = (.failed { kind := .channelTransportError, word := w }, s))
    ∧ (s.halted = false → ∀ (v : Word) (rest : List Byte), s.ackch = wordBytes v ++ rest →
      hostRead s = (.word v, { s with ackch := rest }))
    ∧ (s.halted = false → s.ackch.length < 2 → hostRead s = (.noData, s))
    ∧ hostStop s = { s with stopReq := true }

/-- R216: a word acknowledges another when their low 15 bits are equal and its top bit is 1; the acknowledgement of a word
does, and of no word with other low bits. -/
def Obligations.AckMatchComparesLowFifteenBits : Prop :=
  ∀ r w : Word, (ackMatches r w = true ↔ r = ackWord w) ∧ (ackMatches (ackWord r) w = true ↔ r ||| 0x8000#16 = w ||| 0x8000#16)

/-- R215, R217 to R219: `SEND` with no attempts fails at once without a write; with `n + 1` it writes the word, whatever the
write's result, has `n` attempts left and waits `GRACE` and its oversleep; the end of an attempt succeeds on a match, returns
`DeliveryTimeout` without a write when none is left, and otherwise writes again with one attempt less: so exactly as many writes
as attempts. The host as data, with its oversleep as an input, is the model's form (log 7). -/
def Obligations.DeliveryCountsItsAttempts : Prop :=
  ∀ (s : State) (w : Word) (attempts : Option (BitVec 16)) (os : List Nat) (p : List HostOp) (c : Client) (n : Nat),
    ((attempts.getD s.cfg.defaultAttempts).toNat = 0 →
      runProg (.send w attempts os :: p) s
        = runProg p (reply (.failed { kind := .deliveryTimeout, word := w }) s))
    ∧ ((attempts.getD s.cfg.defaultAttempts).toNat = n + 1 →
      runProg (.send w attempts os :: p) s =
        let t := (hostWrite w s).2
        { t with env := { t.env with
            prog := p
            client := some { word := w, left := n, wait := s.cfg.grace + os.headD 0, oversleep := os.tail } } })
    ∧ (acknowledges (hostRead s).1 c.word = true →
      finishAttempt c s = finishClient (.delivered c.word) (hostRead s).2)
    ∧ (acknowledges (hostRead s).1 c.word = false → c.left = 0 →
      finishAttempt c s = finishClient (.failed { kind := .deliveryTimeout, word := c.word }) (hostRead s).2)
    ∧ (acknowledges (hostRead s).1 c.word = false → c.left = n + 1 →
      finishAttempt c s =
        let t := (hostWrite c.word (hostRead s).2).2
        { t with env := { t.env with
            client := some
              { word := c.word, left := n, wait := s.cfg.grace + c.oversleep.headD 0, oversleep := c.oversleep.tail } } })

/-- R269 for a locomotive word: a delivery that starts with both channels empty and a configured address succeeds at its first
attempt, after exactly its grace wait, and leaves the channels empty. -/
def Obligations.DeliverySucceedsAtTheFirstAttempt : Prop :=
  ∀ (s : State) (w : Word) (attempts : BitVec 16) (extra : Nat) (os : List Nat),
    s.cfg.legal = true → s.halted = false → s.stopReq = false → s.cmdch = [] → s.ackch = [] →
    s.env.rstIn = [] → s.env.client = none → s.env.prog = [.send w (some attempts) (extra :: os)] →
    attempts ≠ 0 → typeField w = 1#2 → (∃ r ∈ s.slots, r.addr = locoAddr w) →
    ∃ t, core.run (s.cfg.grace + extra + 1) s = .next t
      ∧ t.env.replies = [.delivered w] ∧ t.env.client = none ∧ t.cmdch = [] ∧ t.ackch = []

/-! ### The whole machine -/

/-- R160, R190, R191: a step whose command channel holds a word at the clock edge pops it and is `exec` of the instruction
it decodes to, after the host's turn, the transmitter and the ticks (A, B) and before the arbiter and the halt check (D, E);
without a whole word nothing is executed in between. -/
def Obligations.StepRunsTheDecodedCommand : Prop :=
  ∀ s : State, s.cfg.legal = true → NoReset s → (atEdge s).halted = false → (atEdge s).stopReq = false →
    (∀ (i : Instr) (rest : List Byte), decodeBytes (atEdge s).cmdch = .ok (i, rest) →
      step s = andThen (exec i { advanceAndTick (atEdge s) with cmdch := rest }) afterHandler)
    ∧ ((atEdge s).cmdch.length < 2 → step s = afterHandler (advanceAndTick (atEdge s)))

/-- R190: a step takes at most one word from the command channel, the oldest, and only a whole one. -/
def Obligations.HandlerTakesOneWordAStep : Prop :=
  ∀ s t : State, NoReset s → (atEdge s).halted = false → (atEdge s).stopReq = false → step s = .next t →
    t.cmdch = if 2 ≤ (atEdge s).cmdch.length then (atEdge s).cmdch.drop 2 else (atEdge s).cmdch

/-- R235, R8: every step of a legal configuration answers a next state, and an illegal one is refused. Illegal includes an
`ACK_GRACE_MS` of 0, which R7 rules out and R8 does not repeat (log 10). -/
def Obligations.LegalConfigurationNeverStops : Prop :=
  ∀ s : State,
    (s.cfg.legal = true → ∃ t, step s = .next t)
    ∧ (s.cfg.legal = false → step s = .refused .illegalConfig)

/-- R21, R66: no step writes the configuration. -/
def Obligations.ConfigurationIsNeverWritten : Prop := ∀ s t : State, step s = .next t → t.cfg = s.cfg

/-- R23, R143: without a reset the slots' addresses stay, and no slot is created or removed. -/
def Obligations.SlotAddressesAreFixed : Prop :=
  ∀ s t : State, NoReset s → step s = .next t → t.slots.map Slot.addr = s.slots.map Slot.addr

/-- R23, R192: without a reset a slot changes only in a step whose handler runs a locomotive command for its address. -/
def Obligations.OnlyItsCommandChangesASlot : Prop :=
  ∀ (s t : State) (i : Nat) (r : Slot), NoReset s → step s = .next t → s.slots[i]? = some r → t.slots[i]? ≠ some r →
    ∃ ack dir light speed rest, decodeBytes (atEdge s).cmdch = .ok (.cmdLoco ack r.addr dir light speed, rest)
      ∧ t.slots[i]? = some { addr := r.addr, speed := speed, dir := dir, light := light }

/-- R230, R238: after a step the error output carries nothing, or one event whose word the handler popped in this step and
whose kind is one of the four block-side kinds. -/
def Obligations.ErrorOutputIsOfThisStep : Prop :=
  ∀ (s t : State) (e : ErrEvent), step s = .next t → t.errOut = some e →
    e.kind ≠ .deliveryTimeout
    ∧ ∃ rest, chanPopWord (atEdge s).cmdch = some (e.word, rest)

/-- R260, R37: a reset step puts every element of the block at its reset value, whatever it held; the configuration stays.
Elements to which R37 gives no value take the model's (log 3); that the host's program and delivery take their turn and go on
over a reset is the model's reading (log 14). -/
def Obligations.ResetStepRestoresEveryElement : Prop :=
  ∀ (s : State) (r : List Bool), s.cfg.legal = true → s.env.rstIn = true :: r →
    step s = .next { State.resetOf s.cfg with env := { (beforeEdge s).env with rstIn := r } }

/-- R37: the reset values the spec gives, for every legal configuration. -/
def Obligations.ResetValues : Prop :=
  ∀ c : Config, c.legal = true →
    let s := State.resetOf c
    let nothingToSend := c.startupResetCount = 0 ∧ c.startupIdleCount = 0
    s.cfg = c
    ∧ s.slots = c.locos.map (fun l => { addr := l.addr, speed := l.speed, dir := l.dir, light := l.light })
    ∧ s.queue = [] ∧ s.cmdch = [] ∧ s.ackch = []
    ∧ s.snd.length = c.numLoco ∧ (∀ d ∈ s.snd, d.state = .sleep) ∧ s.drn.state = .sleep
    ∧ s.su.resetLeft.toNat = c.startupResetCount ∧ s.su.idleLeft.toNat = c.startupIdleCount
    ∧ (s.su.done = true ↔ nothingToSend)
    ∧ s.arbLast = c.numLoco ∧ s.tx.owner = .none ∧ s.tx.state = .idle
    ∧ s.stopReq = false ∧ s.halted = false ∧ dccOut s = true
    ∧ (nothingToSend → s.snd.map Sender.tick = c.locos.map LocoCfg.phase ∧ s.drn.tick = c.accPhase)

/-- R37, U6: an element with "no value" is never read before it is written: states that agree in all other elements step to
states that do. -/
def Obligations.ElementsWithoutValueAreNeverRead : Prop :=
  ∀ s t : State, ConfigOk s → Agree s t →
    (∃ s' t', step s = .next s' ∧ step t = .next t' ∧ Agree s' t')
    ∨ (step s = .refused .illegalConfig ∧ step t = .refused .illegalConfig)

/-- R24 to R33, R55, R107: the invariants hold after reset, for every legal configuration. -/
def Obligations.InvariantsHoldAtReset : Prop := (∀ c : Config, c.legal = true → Inv (State.resetOf c)) ∧ Inv State.reset

/-- R24 to R33, R55, R107: every step, with whatever host actions and resets, keeps the invariants. -/
def Obligations.EveryStepKeepsTheInvariants : Prop := ∀ s t : State, Inv s → step s = .next t → Inv t

end
end

