-- ==== Sys2Proof/Laws/State.lean ====
section
/-! SUPPORT. One lemma per field per update of `State`, so that no proof unfolds a record update, and `State.reset` field by
field. -/

namespace Sys2Proof.Machine

section setSlots

variable (s : State) (v : List Slot)

@[simp] theorem State.setSlots_cfg : (s.setSlots v).cfg = s.cfg := rfl
@[simp] theorem State.setSlots_slots : (s.setSlots v).slots = v := rfl
@[simp] theorem State.setSlots_queue : (s.setSlots v).queue = s.queue := rfl
@[simp] theorem State.setSlots_cmdch : (s.setSlots v).cmdch = s.cmdch := rfl
@[simp] theorem State.setSlots_ackch : (s.setSlots v).ackch = s.ackch := rfl
@[simp] theorem State.setSlots_snd : (s.setSlots v).snd = s.snd := rfl
@[simp] theorem State.setSlots_drn : (s.setSlots v).drn = s.drn := rfl
@[simp] theorem State.setSlots_su : (s.setSlots v).su = s.su := rfl
@[simp] theorem State.setSlots_arbLast : (s.setSlots v).arbLast = s.arbLast := rfl
@[simp] theorem State.setSlots_tx : (s.setSlots v).tx = s.tx := rfl
@[simp] theorem State.setSlots_stopReq : (s.setSlots v).stopReq = s.stopReq := rfl
@[simp] theorem State.setSlots_halted : (s.setSlots v).halted = s.halted := rfl
@[simp] theorem State.setSlots_errOut : (s.setSlots v).errOut = s.errOut := rfl
@[simp] theorem State.setSlots_env : (s.setSlots v).env = s.env := rfl

end setSlots

section setQueue

variable (s : State) (v : List AccEntry)

@[simp] theorem State.setQueue_cfg : (s.setQueue v).cfg = s.cfg := rfl
@[simp] theorem State.setQueue_slots : (s.setQueue v).slots = s.slots := rfl
@[simp] theorem State.setQueue_queue : (s.setQueue v).queue = v := rfl
@[simp] theorem State.setQueue_cmdch : (s.setQueue v).cmdch = s.cmdch := rfl
@[simp] theorem State.setQueue_ackch : (s.setQueue v).ackch = s.ackch := rfl
@[simp] theorem State.setQueue_snd : (s.setQueue v).snd = s.snd := rfl
@[simp] theorem State.setQueue_drn : (s.setQueue v).drn = s.drn := rfl
@[simp] theorem State.setQueue_su : (s.setQueue v).su = s.su := rfl
@[simp] theorem State.setQueue_arbLast : (s.setQueue v).arbLast = s.arbLast := rfl
@[simp] theorem State.setQueue_tx : (s.setQueue v).tx = s.tx := rfl
@[simp] theorem State.setQueue_stopReq : (s.setQueue v).stopReq = s.stopReq := rfl
@[simp] theorem State.setQueue_halted : (s.setQueue v).halted = s.halted := rfl
@[simp] theorem State.setQueue_errOut : (s.setQueue v).errOut = s.errOut := rfl
@[simp] theorem State.setQueue_env : (s.setQueue v).env = s.env := rfl

end setQueue

section setCmdch

variable (s : State) (v : List Byte)

@[simp] theorem State.setCmdch_cfg : (s.setCmdch v).cfg = s.cfg := rfl
@[simp] theorem State.setCmdch_slots : (s.setCmdch v).slots = s.slots := rfl
@[simp] theorem State.setCmdch_queue : (s.setCmdch v).queue = s.queue := rfl
@[simp] theorem State.setCmdch_cmdch : (s.setCmdch v).cmdch = v := rfl
@[simp] theorem State.setCmdch_ackch : (s.setCmdch v).ackch = s.ackch := rfl
@[simp] theorem State.setCmdch_snd : (s.setCmdch v).snd = s.snd := rfl
@[simp] theorem State.setCmdch_drn : (s.setCmdch v).drn = s.drn := rfl
@[simp] theorem State.setCmdch_su : (s.setCmdch v).su = s.su := rfl
@[simp] theorem State.setCmdch_arbLast : (s.setCmdch v).arbLast = s.arbLast := rfl
@[simp] theorem State.setCmdch_tx : (s.setCmdch v).tx = s.tx := rfl
@[simp] theorem State.setCmdch_stopReq : (s.setCmdch v).stopReq = s.stopReq := rfl
@[simp] theorem State.setCmdch_halted : (s.setCmdch v).halted = s.halted := rfl
@[simp] theorem State.setCmdch_errOut : (s.setCmdch v).errOut = s.errOut := rfl
@[simp] theorem State.setCmdch_env : (s.setCmdch v).env = s.env := rfl

end setCmdch

section setAckch

variable (s : State) (v : List Byte)

@[simp] theorem State.setAckch_cfg : (s.setAckch v).cfg = s.cfg := rfl
@[simp] theorem State.setAckch_slots : (s.setAckch v).slots = s.slots := rfl
@[simp] theorem State.setAckch_queue : (s.setAckch v).queue = s.queue := rfl
@[simp] theorem State.setAckch_cmdch : (s.setAckch v).cmdch = s.cmdch := rfl
@[simp] theorem State.setAckch_ackch : (s.setAckch v).ackch = v := rfl
@[simp] theorem State.setAckch_snd : (s.setAckch v).snd = s.snd := rfl
@[simp] theorem State.setAckch_drn : (s.setAckch v).drn = s.drn := rfl
@[simp] theorem State.setAckch_su : (s.setAckch v).su = s.su := rfl
@[simp] theorem State.setAckch_arbLast : (s.setAckch v).arbLast = s.arbLast := rfl
@[simp] theorem State.setAckch_tx : (s.setAckch v).tx = s.tx := rfl
@[simp] theorem State.setAckch_stopReq : (s.setAckch v).stopReq = s.stopReq := rfl
@[simp] theorem State.setAckch_halted : (s.setAckch v).halted = s.halted := rfl
@[simp] theorem State.setAckch_errOut : (s.setAckch v).errOut = s.errOut := rfl
@[simp] theorem State.setAckch_env : (s.setAckch v).env = s.env := rfl

end setAckch

section setSnd

variable (s : State) (v : List Sender)

@[simp] theorem State.setSnd_cfg : (s.setSnd v).cfg = s.cfg := rfl
@[simp] theorem State.setSnd_slots : (s.setSnd v).slots = s.slots := rfl
@[simp] theorem State.setSnd_queue : (s.setSnd v).queue = s.queue := rfl
@[simp] theorem State.setSnd_cmdch : (s.setSnd v).cmdch = s.cmdch := rfl
@[simp] theorem State.setSnd_ackch : (s.setSnd v).ackch = s.ackch := rfl
@[simp] theorem State.setSnd_snd : (s.setSnd v).snd = v := rfl
@[simp] theorem State.setSnd_drn : (s.setSnd v).drn = s.drn := rfl
@[simp] theorem State.setSnd_su : (s.setSnd v).su = s.su := rfl
@[simp] theorem State.setSnd_arbLast : (s.setSnd v).arbLast = s.arbLast := rfl
@[simp] theorem State.setSnd_tx : (s.setSnd v).tx = s.tx := rfl
@[simp] theorem State.setSnd_stopReq : (s.setSnd v).stopReq = s.stopReq := rfl
@[simp] theorem State.setSnd_halted : (s.setSnd v).halted = s.halted := rfl
@[simp] theorem State.setSnd_errOut : (s.setSnd v).errOut = s.errOut := rfl
@[simp] theorem State.setSnd_env : (s.setSnd v).env = s.env := rfl

end setSnd

section setDrn

variable (s : State) (v : Sender)

@[simp] theorem State.setDrn_cfg : (s.setDrn v).cfg = s.cfg := rfl
@[simp] theorem State.setDrn_slots : (s.setDrn v).slots = s.slots := rfl
@[simp] theorem State.setDrn_queue : (s.setDrn v).queue = s.queue := rfl
@[simp] theorem State.setDrn_cmdch : (s.setDrn v).cmdch = s.cmdch := rfl
@[simp] theorem State.setDrn_ackch : (s.setDrn v).ackch = s.ackch := rfl
@[simp] theorem State.setDrn_snd : (s.setDrn v).snd = s.snd := rfl
@[simp] theorem State.setDrn_drn : (s.setDrn v).drn = v := rfl
@[simp] theorem State.setDrn_su : (s.setDrn v).su = s.su := rfl
@[simp] theorem State.setDrn_arbLast : (s.setDrn v).arbLast = s.arbLast := rfl
@[simp] theorem State.setDrn_tx : (s.setDrn v).tx = s.tx := rfl
@[simp] theorem State.setDrn_stopReq : (s.setDrn v).stopReq = s.stopReq := rfl
@[simp] theorem State.setDrn_halted : (s.setDrn v).halted = s.halted := rfl
@[simp] theorem State.setDrn_errOut : (s.setDrn v).errOut = s.errOut := rfl
@[simp] theorem State.setDrn_env : (s.setDrn v).env = s.env := rfl

end setDrn

section setSu

variable (s : State) (v : Startup)

@[simp] theorem State.setSu_cfg : (s.setSu v).cfg = s.cfg := rfl
@[simp] theorem State.setSu_slots : (s.setSu v).slots = s.slots := rfl
@[simp] theorem State.setSu_queue : (s.setSu v).queue = s.queue := rfl
@[simp] theorem State.setSu_cmdch : (s.setSu v).cmdch = s.cmdch := rfl
@[simp] theorem State.setSu_ackch : (s.setSu v).ackch = s.ackch := rfl
@[simp] theorem State.setSu_snd : (s.setSu v).snd = s.snd := rfl
@[simp] theorem State.setSu_drn : (s.setSu v).drn = s.drn := rfl
@[simp] theorem State.setSu_su : (s.setSu v).su = v := rfl
@[simp] theorem State.setSu_arbLast : (s.setSu v).arbLast = s.arbLast := rfl
@[simp] theorem State.setSu_tx : (s.setSu v).tx = s.tx := rfl
@[simp] theorem State.setSu_stopReq : (s.setSu v).stopReq = s.stopReq := rfl
@[simp] theorem State.setSu_halted : (s.setSu v).halted = s.halted := rfl
@[simp] theorem State.setSu_errOut : (s.setSu v).errOut = s.errOut := rfl
@[simp] theorem State.setSu_env : (s.setSu v).env = s.env := rfl

end setSu

section setArbLast

variable (s : State) (v : Nat)

@[simp] theorem State.setArbLast_cfg : (s.setArbLast v).cfg = s.cfg := rfl
@[simp] theorem State.setArbLast_slots : (s.setArbLast v).slots = s.slots := rfl
@[simp] theorem State.setArbLast_queue : (s.setArbLast v).queue = s.queue := rfl
@[simp] theorem State.setArbLast_cmdch : (s.setArbLast v).cmdch = s.cmdch := rfl
@[simp] theorem State.setArbLast_ackch : (s.setArbLast v).ackch = s.ackch := rfl
@[simp] theorem State.setArbLast_snd : (s.setArbLast v).snd = s.snd := rfl
@[simp] theorem State.setArbLast_drn : (s.setArbLast v).drn = s.drn := rfl
@[simp] theorem State.setArbLast_su : (s.setArbLast v).su = s.su := rfl
@[simp] theorem State.setArbLast_arbLast : (s.setArbLast v).arbLast = v := rfl
@[simp] theorem State.setArbLast_tx : (s.setArbLast v).tx = s.tx := rfl
@[simp] theorem State.setArbLast_stopReq : (s.setArbLast v).stopReq = s.stopReq := rfl
@[simp] theorem State.setArbLast_halted : (s.setArbLast v).halted = s.halted := rfl
@[simp] theorem State.setArbLast_errOut : (s.setArbLast v).errOut = s.errOut := rfl
@[simp] theorem State.setArbLast_env : (s.setArbLast v).env = s.env := rfl

end setArbLast

section setTx

variable (s : State) (v : Transmitter)

@[simp] theorem State.setTx_cfg : (s.setTx v).cfg = s.cfg := rfl
@[simp] theorem State.setTx_slots : (s.setTx v).slots = s.slots := rfl
@[simp] theorem State.setTx_queue : (s.setTx v).queue = s.queue := rfl
@[simp] theorem State.setTx_cmdch : (s.setTx v).cmdch = s.cmdch := rfl
@[simp] theorem State.setTx_ackch : (s.setTx v).ackch = s.ackch := rfl
@[simp] theorem State.setTx_snd : (s.setTx v).snd = s.snd := rfl
@[simp] theorem State.setTx_drn : (s.setTx v).drn = s.drn := rfl
@[simp] theorem State.setTx_su : (s.setTx v).su = s.su := rfl
@[simp] theorem State.setTx_arbLast : (s.setTx v).arbLast = s.arbLast := rfl
@[simp] theorem State.setTx_tx : (s.setTx v).tx = v := rfl
@[simp] theorem State.setTx_stopReq : (s.setTx v).stopReq = s.stopReq := rfl
@[simp] theorem State.setTx_halted : (s.setTx v).halted = s.halted := rfl
@[simp] theorem State.setTx_errOut : (s.setTx v).errOut = s.errOut := rfl
@[simp] theorem State.setTx_env : (s.setTx v).env = s.env := rfl

end setTx

section setStopReq

variable (s : State) (v : Bool)

@[simp] theorem State.setStopReq_cfg : (s.setStopReq v).cfg = s.cfg := rfl
@[simp] theorem State.setStopReq_slots : (s.setStopReq v).slots = s.slots := rfl
@[simp] theorem State.setStopReq_queue : (s.setStopReq v).queue = s.queue := rfl
@[simp] theorem State.setStopReq_cmdch : (s.setStopReq v).cmdch = s.cmdch := rfl
@[simp] theorem State.setStopReq_ackch : (s.setStopReq v).ackch = s.ackch := rfl
@[simp] theorem State.setStopReq_snd : (s.setStopReq v).snd = s.snd := rfl
@[simp] theorem State.setStopReq_drn : (s.setStopReq v).drn = s.drn := rfl
@[simp] theorem State.setStopReq_su : (s.setStopReq v).su = s.su := rfl
@[simp] theorem State.setStopReq_arbLast : (s.setStopReq v).arbLast = s.arbLast := rfl
@[simp] theorem State.setStopReq_tx : (s.setStopReq v).tx = s.tx := rfl
@[simp] theorem State.setStopReq_stopReq : (s.setStopReq v).stopReq = v := rfl
@[simp] theorem State.setStopReq_halted : (s.setStopReq v).halted = s.halted := rfl
@[simp] theorem State.setStopReq_errOut : (s.setStopReq v).errOut = s.errOut := rfl
@[simp] theorem State.setStopReq_env : (s.setStopReq v).env = s.env := rfl

end setStopReq

section setHalted

variable (s : State) (v : Bool)

@[simp] theorem State.setHalted_cfg : (s.setHalted v).cfg = s.cfg := rfl
@[simp] theorem State.setHalted_slots : (s.setHalted v).slots = s.slots := rfl
@[simp] theorem State.setHalted_queue : (s.setHalted v).queue = s.queue := rfl
@[simp] theorem State.setHalted_cmdch : (s.setHalted v).cmdch = s.cmdch := rfl
@[simp] theorem State.setHalted_ackch : (s.setHalted v).ackch = s.ackch := rfl
@[simp] theorem State.setHalted_snd : (s.setHalted v).snd = s.snd := rfl
@[simp] theorem State.setHalted_drn : (s.setHalted v).drn = s.drn := rfl
@[simp] theorem State.setHalted_su : (s.setHalted v).su = s.su := rfl
@[simp] theorem State.setHalted_arbLast : (s.setHalted v).arbLast = s.arbLast := rfl
@[simp] theorem State.setHalted_tx : (s.setHalted v).tx = s.tx := rfl
@[simp] theorem State.setHalted_stopReq : (s.setHalted v).stopReq = s.stopReq := rfl
@[simp] theorem State.setHalted_halted : (s.setHalted v).halted = v := rfl
@[simp] theorem State.setHalted_errOut : (s.setHalted v).errOut = s.errOut := rfl
@[simp] theorem State.setHalted_env : (s.setHalted v).env = s.env := rfl

end setHalted

section setErrOut

variable (s : State) (v : Option ErrEvent)

@[simp] theorem State.setErrOut_cfg : (s.setErrOut v).cfg = s.cfg := rfl
@[simp] theorem State.setErrOut_slots : (s.setErrOut v).slots = s.slots := rfl
@[simp] theorem State.setErrOut_queue : (s.setErrOut v).queue = s.queue := rfl
@[simp] theorem State.setErrOut_cmdch : (s.setErrOut v).cmdch = s.cmdch := rfl
@[simp] theorem State.setErrOut_ackch : (s.setErrOut v).ackch = s.ackch := rfl
@[simp] theorem State.setErrOut_snd : (s.setErrOut v).snd = s.snd := rfl
@[simp] theorem State.setErrOut_drn : (s.setErrOut v).drn = s.drn := rfl
@[simp] theorem State.setErrOut_su : (s.setErrOut v).su = s.su := rfl
@[simp] theorem State.setErrOut_arbLast : (s.setErrOut v).arbLast = s.arbLast := rfl
@[simp] theorem State.setErrOut_tx : (s.setErrOut v).tx = s.tx := rfl
@[simp] theorem State.setErrOut_stopReq : (s.setErrOut v).stopReq = s.stopReq := rfl
@[simp] theorem State.setErrOut_halted : (s.setErrOut v).halted = s.halted := rfl
@[simp] theorem State.setErrOut_errOut : (s.setErrOut v).errOut = v := rfl
@[simp] theorem State.setErrOut_env : (s.setErrOut v).env = s.env := rfl

end setErrOut

section setEnv

variable (s : State) (v : Env)

@[simp] theorem State.setEnv_cfg : (s.setEnv v).cfg = s.cfg := rfl
@[simp] theorem State.setEnv_slots : (s.setEnv v).slots = s.slots := rfl
@[simp] theorem State.setEnv_queue : (s.setEnv v).queue = s.queue := rfl
@[simp] theorem State.setEnv_cmdch : (s.setEnv v).cmdch = s.cmdch := rfl
@[simp] theorem State.setEnv_ackch : (s.setEnv v).ackch = s.ackch := rfl
@[simp] theorem State.setEnv_snd : (s.setEnv v).snd = s.snd := rfl
@[simp] theorem State.setEnv_drn : (s.setEnv v).drn = s.drn := rfl
@[simp] theorem State.setEnv_su : (s.setEnv v).su = s.su := rfl
@[simp] theorem State.setEnv_arbLast : (s.setEnv v).arbLast = s.arbLast := rfl
@[simp] theorem State.setEnv_tx : (s.setEnv v).tx = s.tx := rfl
@[simp] theorem State.setEnv_stopReq : (s.setEnv v).stopReq = s.stopReq := rfl
@[simp] theorem State.setEnv_halted : (s.setEnv v).halted = s.halted := rfl
@[simp] theorem State.setEnv_errOut : (s.setEnv v).errOut = s.errOut := rfl
@[simp] theorem State.setEnv_env : (s.setEnv v).env = v := rfl

end setEnv

/-! ### Reset -/

section resetOf

variable (c : Config)

@[simp] theorem State.resetOf_cfg : (State.resetOf c).cfg = c := rfl
@[simp] theorem State.resetOf_queue : (State.resetOf c).queue = [] := rfl
@[simp] theorem State.resetOf_cmdch : (State.resetOf c).cmdch = [] := rfl
@[simp] theorem State.resetOf_ackch : (State.resetOf c).ackch = [] := rfl
@[simp] theorem State.resetOf_arbLast : (State.resetOf c).arbLast = c.locos.length := rfl
@[simp] theorem State.resetOf_stopReq : (State.resetOf c).stopReq = false := rfl
@[simp] theorem State.resetOf_halted : (State.resetOf c).halted = false := rfl
@[simp] theorem State.resetOf_errOut : (State.resetOf c).errOut = none := rfl
@[simp] theorem State.resetOf_txState : (State.resetOf c).tx.state = .idle := rfl
@[simp] theorem State.resetOf_txOwner : (State.resetOf c).tx.owner = .none := rfl
@[simp] theorem State.resetOf_suDone : (State.resetOf c).su.done = startupEmpty c := rfl

end resetOf

end Sys2Proof.Machine
end

