-- ==== Sys2Proof/Laws/Ops.lean ====
section
/-! SUPPORT. What each shared operation of `Machine/Ops.lean` and `Machine/Arbiter.lean` can do, one lemma each, for proofs to
cite instead of unfolding the operation. -/

namespace Sys2Proof.Machine

/-! ### Channels -/

@[simp] theorem wordBytes_length (w : Word) : (wordBytes w).length = 2 := rfl

theorem bytesWord_wordBytes (w : Word) : bytesWord (w.extractLsb' 0 8) (w.extractLsb' 8 8) = w := by
  apply BitVec.eq_of_getLsbD_eq
  intro i hi
  simp only [bytesWord, BitVec.getLsbD_append, BitVec.getLsbD_extractLsb']
  by_cases h : i < 8
  · simp [h]
  · have h2 : i - 8 < 8 := by omega
    have h3 : 8 + (i - 8) = i := by omega
    simp [h, h2, h3]

theorem chanPushWord_eq_some {cap : Nat} {ch ch' : List Byte} {w : Word} :
    chanPushWord cap ch w = some ch' ↔ ch.length + 2 ≤ cap ∧ ch' = ch ++ wordBytes w := by
  unfold chanPushWord chanCount
  split <;> rename_i h
  · have : ch.length + 2 ≤ cap := by omega
    simp [this, eq_comm]
  · have : ¬ ch.length + 2 ≤ cap := by omega
    simp [this]

theorem chanPushWord_eq_none {cap : Nat} {ch : List Byte} {w : Word} :
    chanPushWord cap ch w = none ↔ cap < ch.length + 2 := by
  unfold chanPushWord chanCount
  split <;> rename_i h <;> simp <;> omega

theorem chanPopWord_eq_some {ch rest : List Byte} {w : Word} :
    chanPopWord ch = some (w, rest) ↔ ∃ b0 b1, ch = b0 :: b1 :: rest ∧ w = bytesWord b0 b1 := by
  match ch with
  | [] => simp [chanPopWord]
  | [_] => simp [chanPopWord]
  | b0 :: b1 :: r =>
    simp only [chanPopWord, Option.some.injEq, Prod.mk.injEq, List.cons.injEq]
    constructor
    · rintro ⟨rfl, rfl⟩; exact ⟨b0, b1, ⟨rfl, rfl, rfl⟩, rfl⟩
    · rintro ⟨_, _, ⟨rfl, rfl, rfl⟩, rfl⟩; exact ⟨rfl, rfl⟩

theorem chanPopWord_eq_none {ch : List Byte} : chanPopWord ch = none ↔ ch.length < 2 := by
  match ch with
  | [] => simp [chanPopWord]
  | [_] => simp [chanPopWord]
  | _ :: _ :: _ => simp [chanPopWord]

/-! ### Slots -/

/-- The scan of R140 is the library's first index with the address, counted from where the scan starts. -/
theorem lookupFrom_eq (addr : BitVec 7) (rs : List Slot) (i : Nat) :
    lookupFrom addr i rs = (rs.findIdx? fun r => r.addr == addr).map (· + i) := by
  induction rs generalizing i with
  | nil => simp [lookupFrom]
  | cons r rs ih =>
    simp only [lookupFrom, List.findIdx?_cons, ih]
    by_cases h : r.addr = addr
    · simp [h]
    · simp [h, Function.comp_def, Nat.add_assoc, Nat.add_comm 1 i]

theorem lookup_eq (addr : BitVec 7) (s : State) :
    lookup addr s = s.slots.findIdx? fun r => r.addr == addr := by
  simp [lookup, lookupFrom_eq]

@[simp] theorem slotUpdate_addr (speed : BitVec 4) (dir light : BitVec 1) (r : Slot) :
    (slotUpdate speed dir light r).addr = r.addr := rfl

/-- A slot write keeps every address (R141). -/
theorem slotWrite_map_addr (i : Nat) (speed : BitVec 4) (dir light : BitVec 1) (s : State) :
    (slotWrite i speed dir light s).slots.map Slot.addr = s.slots.map Slot.addr := by
  apply List.ext_getElem?
  intro j
  simp only [slotWrite, State.setSlots_slots, List.getElem?_map, List.getElem?_modify]
  cases s.slots[j]? with
  | none => rfl
  | some r => by_cases h : i = j <;> simp [h]

/-! ### Queue -/

/-- What `QEnqueueOrUpdate` can do (R146). -/
theorem qEnqueueOrUpdate_cases (depth : Nat) (e : AccEntry) (q : List AccEntry) :
    (∃ j, qLookup e.addr e.dev q = some j
      ∧ qEnqueueOrUpdate depth e q = (.updated, q.modify j fun r => { r with ctl := e.ctl, en := e.en }))
    ∨ (qLookup e.addr e.dev q = none ∧ q.length < depth ∧ qEnqueueOrUpdate depth e q = (.appended, q ++ [e]))
    ∨ (qLookup e.addr e.dev q = none ∧ depth ≤ q.length ∧ qEnqueueOrUpdate depth e q = (.full, q)) := by
  unfold qEnqueueOrUpdate
  cases h : qLookup e.addr e.dev q with
  | some j => exact .inl ⟨j, rfl, rfl⟩
  | none =>
    by_cases hl : q.length < depth
    · exact .inr (.inl ⟨rfl, hl, by simp [hl]⟩)
    · exact .inr (.inr ⟨rfl, by omega, by simp [hl]⟩)

/-- No entry has a key that is not found (R145). -/
theorem qLookup_eq_none {addr : BitVec 9} {dev : BitVec 2} {q : List AccEntry} :
    qLookup addr dev q = none ↔ ∀ e ∈ q, ¬(e.addr = addr ∧ e.dev = dev) := by
  simp [qLookup, List.findIdx?_eq_none_iff, AccEntry.hasKey]

/-! ### Errors and acknowledgements -/

/-- What `SendAck` can do (R197). -/
theorem sendAck_cases (w : Word) (s : State) :
    (s.ackch.length + 2 ≤ s.cfg.chanCapBytes ∧ sendAck w s = s.setAckch (s.ackch ++ wordBytes (ackWord w)))
    ∨ (s.cfg.chanCapBytes < s.ackch.length + 2 ∧ sendAck w s = raise .channelTransportError w s) := by
  unfold sendAck
  cases h : chanPushWord s.cfg.chanCapBytes s.ackch (ackWord w) with
  | some ch =>
    obtain ⟨h1, rfl⟩ := chanPushWord_eq_some.mp h
    exact .inl ⟨h1, rfl⟩
  | none => exact .inr ⟨chanPushWord_eq_none.mp h, rfl⟩

/-! ### Transmission -/

/-- `TxStart` with a length it accepts (R126). -/
theorem txStart_eq_next {len : Nat} (t : Telegram) (s : State) (h1 : 1 ≤ len) (h2 : len ≤ 64) :
    txStart t len s = .next (s.setTx { s.tx with
      frame := t, len := BitVec.ofNat 7 len, idx := BitVec.ofNat 6 (len - 1), state := .settle
      cnt := s.cfg.settle }) := by
  simp [txStart, h1, h2]

@[simp] theorem claim_cfg (o : Owner) (s : State) : (claim o s).cfg = s.cfg := by cases o <;> rfl
@[simp] theorem claim_slots (o : Owner) (s : State) : (claim o s).slots = s.slots := by cases o <;> rfl
@[simp] theorem claim_queue (o : Owner) (s : State) : (claim o s).queue = s.queue := by cases o <;> rfl
@[simp] theorem claim_cmdch (o : Owner) (s : State) : (claim o s).cmdch = s.cmdch := by cases o <;> rfl
@[simp] theorem claim_ackch (o : Owner) (s : State) : (claim o s).ackch = s.ackch := by cases o <;> rfl
@[simp] theorem claim_su (o : Owner) (s : State) : (claim o s).su = s.su := by cases o <;> rfl
@[simp] theorem claim_tx (o : Owner) (s : State) : (claim o s).tx = s.tx := by cases o <;> rfl
@[simp] theorem claim_stopReq (o : Owner) (s : State) : (claim o s).stopReq = s.stopReq := by cases o <;> rfl
@[simp] theorem claim_halted (o : Owner) (s : State) : (claim o s).halted = s.halted := by cases o <;> rfl
@[simp] theorem claim_errOut (o : Owner) (s : State) : (claim o s).errOut = s.errOut := by cases o <;> rfl
@[simp] theorem claim_env (o : Owner) (s : State) : (claim o s).env = s.env := by cases o <;> rfl

/-- The transmitter after a grant (R171). -/
def grantedTx (o : Owner) (t : Telegram) (s : State) : Transmitter where
  owner := o
  state := .settle
  frame := t
  len := 42#7
  idx := 41#6
  cnt := s.cfg.settle

/-- A grant always answers: the claim, and the transmitter started (R171). -/
theorem grantTo_eq (o : Owner) (t : Telegram) (s : State) :
    grantTo o t s = .next ((claim o s).setTx (grantedTx o t s)) := by
  unfold grantTo grant
  rw [txStart_eq_next t _ (by decide) (by decide)]
  simp [frameLen, grantedTx, State.setTx]

/-- What executing a telegram can do (log 4). -/
theorem transmit_cases (t : Telegram) (s : State) :
    (∃ o, offered s = some (o, t) ∧ transmit t s = .next ((claim o s).setTx (grantedTx o t s)))
    ∨ ((∀ o, offered s ≠ some (o, t)) ∧ transmit t s = .next s) := by
  unfold transmit
  cases h : offered s with
  | none => exact .inr ⟨by simp, rfl⟩
  | some p =>
    obtain ⟨o, u⟩ := p
    by_cases hu : u = t
    · subst hu; exact .inl ⟨o, rfl, by simp [grantTo_eq]⟩
    · exact .inr ⟨by intro o' h'; simp only [Option.some.injEq, Prod.mk.injEq] at h'; exact hu h'.2, by simp [hu]⟩

/-- Who is offered the line, and when (R171). -/
theorem offered_eq_some {s : State} {o : Owner} {t : Telegram} (h : offered s = some (o, t)) :
    s.tx.state = .idle ∧ s.stopReq = false
    ∧ ((s.su.done = false ∧ suWants s.su = true ∧ o = .su ∧ t = suFrame s.su)
      ∨ (s.su.done = true ∧ ∃ r d, roundRobinPick s = some r ∧ r < s.cfg.numLoco ∧ s.snd[r]? = some d ∧ o = .loco r
          ∧ t = d.frame)
      ∨ (s.su.done = true ∧ ∃ r, roundRobinPick s = some r ∧ s.cfg.numLoco ≤ r ∧ o = .drain ∧ t = s.drn.frame)) := by
  unfold offered at h
  split at h
  · simp at h
  · rename_i h0
    simp only [ne_eq, not_or, not_not, Bool.not_eq_true] at h0
    refine ⟨h0.1, h0.2, ?_⟩
    split at h
    · rename_i hd
      split at h
      · rename_i hw
        simp only [Option.some.injEq, Prod.mk.injEq] at h
        exact .inl ⟨hd, hw, h.1.symm, h.2.symm⟩
      · simp at h
    · rename_i hd
      have hd' : s.su.done = true := by simpa using hd
      split at h
      · simp at h
      · rename_i r hr
        split at h
        · rename_i hlt
          cases hs : s.snd[r]? with
          | none => simp [hs] at h
          | some d =>
            simp only [hs, Option.map_some, Option.some.injEq, Prod.mk.injEq] at h
            exact .inr (.inl ⟨hd', r, d, hr, hlt, hs, h.1.symm, h.2.symm⟩)
        · rename_i hge
          simp only [Option.some.injEq, Prod.mk.injEq] at h
          exact .inr (.inr ⟨hd', r, hr, by omega, h.1.symm, h.2.symm⟩)

/-- The line is offered to nobody while it is busy or after a stop request (R171, R177). -/
theorem offered_eq_none {s : State} (h : s.tx.state ≠ .idle ∨ s.stopReq = true) : offered s = none := by
  simp [offered, h]

/-- What the pick found is waiting and is a requester (R172). -/
theorem roundRobinPick_some {s : State} {r : Nat} (h : roundRobinPick s = some r) :
    waiting s r = true ∧ r ≤ s.cfg.numLoco := by
  unfold roundRobinPick at h
  refine ⟨List.find?_some h, ?_⟩
  have hm := List.mem_of_find?_eq_some h
  simp only [searchOrder, List.mem_map, List.mem_range] at hm
  obtain ⟨k, _, rfl⟩ := hm
  exact Nat.lt_succ_iff.mp (Nat.mod_lt _ (Nat.succ_pos _))

/-- What it is for a requester to wait (R172). -/
theorem waiting_eq_true {s : State} {r : Nat} :
    waiting s r = true ↔ (r < s.cfg.numLoco ∧ s.snd[r]?.map Sender.state = some .wait)
      ∨ (r = s.cfg.numLoco ∧ s.drn.state = .wait) := by
  simp [waiting]

end Sys2Proof.Machine
end

