-- ==== Sys2Proof/Laws/PerInstr.lean ====
section
/-! SUPPORT. Facts per instruction. `TableRow`: the encoder's bits obey the mask and match of the instruction's row of
`spec/opcode_table.json`. -/

namespace Sys2Proof.Laws

/-- A 16-bit code under a row's mask and match. -/
def Obeys16 (c : Code) (mask pattern : Word) : Prop := ∃ w, c = .w16 w ∧ w &&& mask = pattern

/-- A 64-bit code under a row's mask and match. -/
def Obeys64 (c : Code) (mask pattern : Telegram) : Prop := ∃ t, c = .t64 t ∧ t &&& mask = pattern

/-- The row of the opcode table, as mask and match on the encoding (R83, R90). -/
def TableRow.Statement : Instr → Prop
  | i@(.cmdLoco _ _ _ _ _) => Obeys16 (encode i) 0x6000#16 0x2000#16
  | i@(.cmdAcc _ _ _ _ _) => Obeys16 (encode i) 0x6000#16 0x4000#16
  | i@(.cmdBad00 _ _) => Obeys16 (encode i) 0x6000#16 0x0000#16
  | i@(.cmdBad11 _ _) => Obeys16 (encode i) 0x6000#16 0x6000#16
  | i@(.ackLoco _ _ _ _) => Obeys16 (encode i) 0xE000#16 0xA000#16
  | i@(.ackAcc _ _ _ _) => Obeys16 (encode i) 0xE000#16 0xC000#16
  | i@(.tgLoco _ _ _ _ _) => Obeys64 (encode i) 0xFFFFFFFFFC070201#64 0x000003FFF0010001#64
  | i@(.tgAcc _ _ _ _ _) => Obeys64 (encode i) 0xFFFFFFFFFE060201#64 0x000003FFF4020001#64
  | .tgIdle => Obeys64 (encode .tgIdle) 0xFFFFFFFFFFFFFFFF#64 0x000003FFF7F801FF#64
  | .tgReset => Obeys64 (encode .tgReset) 0xFFFFFFFFFFFFFFFF#64 0x000003FFF0000001#64

/-- The type field of a word put together from its parts is under the table's 16-bit masks. -/
theorem type_and_mask (ack : BitVec 1) (t : BitVec 2) (body : BitVec 13) :
    (ack ++ t ++ body : BitVec 16) &&& 0x6000#16 = 0#1 ++ t ++ 0#13 := by
  apply BitVec.eq_of_getLsbD_eq
  intro i hi
  simp only [BitVec.getLsbD_and, BitVec.getLsbD_append]
  interval_cases i <;> simp

theorem ack_and_mask (t : BitVec 2) (body : BitVec 13) :
    (1#1 ++ t ++ body : BitVec 16) &&& 0xE000#16 = 1#1 ++ t ++ 0#13 := by
  apply BitVec.eq_of_getLsbD_eq
  intro i hi
  simp only [BitVec.getLsbD_and, BitVec.getLsbD_append]
  interval_cases i <;> simp

theorem locoWord_eq (addr : BitVec 7) (speed : BitVec 4) (dir light ack : BitVec 1) :
    Machine.locoWord addr speed dir light ack = ack ++ 1#2 ++ (addr ++ dir ++ light ++ speed : BitVec 13) := by
  apply BitVec.eq_of_getLsbD_eq
  intro i hi
  simp only [Machine.locoWord, BitVec.getLsbD_append]
  interval_cases i <;> simp

theorem accWord_eq (addr : BitVec 9) (dev : BitVec 2) (ctl en ack : BitVec 1) :
    Machine.accWord addr dev ctl en ack = ack ++ 2#2 ++ (addr ++ ctl ++ dev ++ en : BitVec 13) := by
  apply BitVec.eq_of_getLsbD_eq
  intro i hi
  simp only [Machine.accWord, BitVec.getLsbD_append]
  interval_cases i <;> simp

namespace TableRow

theorem cmdLoco (ack : BitVec 1) (addr : BitVec 7) (dir light : BitVec 1) (speed : BitVec 4) :
    Statement (.cmdLoco ack addr dir light speed) :=
  ⟨_, rfl, by rw [locoWord_eq]; exact (type_and_mask ..).trans (by decide)⟩

theorem cmdAcc (ack : BitVec 1) (addr : BitVec 9) (ctl : BitVec 1) (dev : BitVec 2) (en : BitVec 1) :
    Statement (.cmdAcc ack addr ctl dev en) :=
  ⟨_, rfl, by rw [accWord_eq]; exact (type_and_mask ..).trans (by decide)⟩

theorem cmdBad00 (ack : BitVec 1) (body : BitVec 13) : Statement (.cmdBad00 ack body) :=
  ⟨_, rfl, (type_and_mask ..).trans (by decide)⟩

theorem cmdBad11 (ack : BitVec 1) (body : BitVec 13) : Statement (.cmdBad11 ack body) :=
  ⟨_, rfl, (type_and_mask ..).trans (by decide)⟩

theorem ackLoco (addr : BitVec 7) (dir light : BitVec 1) (speed : BitVec 4) :
    Statement (.ackLoco addr dir light speed) :=
  ⟨_, rfl, by rw [locoWord_eq]; exact (ack_and_mask ..).trans (by decide)⟩

theorem ackAcc (addr : BitVec 9) (ctl : BitVec 1) (dev : BitVec 2) (en : BitVec 1) :
    Statement (.ackAcc addr ctl dev en) :=
  ⟨_, rfl, by rw [accWord_eq]; exact (ack_and_mask ..).trans (by decide)⟩

theorem tgLoco (addr : BitVec 7) (dir light : BitVec 1) (speed : BitVec 4) (x : BitVec 8) :
    Statement (.tgLoco addr dir light speed x) := by
  refine ⟨_, rfl, ?_⟩
  apply BitVec.eq_of_getLsbD_eq
  intro i hi
  simp only [Machine.telegramOf, Machine.locoAddrByte, Machine.locoCmdByte, BitVec.getLsbD_and, BitVec.getLsbD_append]
  interval_cases i <;> simp

theorem tgAcc (addr : BitVec 9) (ctl : BitVec 1) (dev : BitVec 2) (en : BitVec 1) (x : BitVec 8) :
    Statement (.tgAcc addr ctl dev en x) := by
  refine ⟨_, rfl, ?_⟩
  apply BitVec.eq_of_getLsbD_eq
  intro i hi
  simp only [Machine.telegramOf, Machine.accAddrByte, Machine.accCmdByte, BitVec.getLsbD_and, BitVec.getLsbD_append]
  interval_cases i <;> simp

theorem tgIdle : Statement .tgIdle := ⟨_, rfl, by decide⟩

theorem tgReset : Statement .tgReset := ⟨_, rfl, by decide⟩

end TableRow

end Sys2Proof.Laws
end

