-- ==== Sys2Proof/Laws/Units.lean ====
section
/-! SUPPORT. What each sub-step of the clock step can do and what it leaves alone (`43_scheduling.md` R160), and the step as a
whole: one lemma per function, for proofs to cite. -/

namespace Sys2Proof.Machine

/-! ### Sub-step A -/

section complete

variable (o : Owner) (s : State)

theorem startupDone_eq : startupDone s =
    if (startupCount s.su).resetLeft = 0#8 ∧ (startupCount s.su).idleLeft = 0#8 ∧ s.stopReq = false
    then loadPhases (s.setSu { startupCount s.su with done := true })
    else s.setSu (startupCount s.su) := rfl

/-- After a stop request a completion of the sequencer counts its telegram off and does nothing else (R177, D33). -/
theorem startupDone_of_stopReq (h : s.stopReq = true) : startupDone s = s.setSu (startupCount s.su) := by
  simp [startupDone_eq, h]

@[simp] theorem startupCount_done (u : Startup) : (startupCount u).done = u.done := by
  unfold startupCount; split <;> rfl

/-- After a stop request no completion touches `su.done` (R177, D33). -/
theorem complete_done_of_stopReq (h : s.stopReq = true) : (complete o s).su.done = s.su.done := by
  cases o with
  | su => simp [complete, startupDone_of_stopReq s h]
  | none => rfl
  | loco i => rfl
  | drain => rfl

@[simp] theorem complete_cfg : (complete o s).cfg = s.cfg := by
  cases o <;> simp only [complete, startupDone_eq] <;> first | rfl | (split <;> rfl)
@[simp] theorem complete_slots : (complete o s).slots = s.slots := by
  cases o <;> simp only [complete, startupDone_eq] <;> first | rfl | (split <;> rfl)
@[simp] theorem complete_queue : (complete o s).queue = s.queue := by
  cases o <;> simp only [complete, startupDone_eq] <;> first | rfl | (split <;> rfl)
@[simp] theorem complete_cmdch : (complete o s).cmdch = s.cmdch := by
  cases o <;> simp only [complete, startupDone_eq] <;> first | rfl | (split <;> rfl)
@[simp] theorem complete_ackch : (complete o s).ackch = s.ackch := by
  cases o <;> simp only [complete, startupDone_eq] <;> first | rfl | (split <;> rfl)
@[simp] theorem complete_arbLast : (complete o s).arbLast = s.arbLast := by
  cases o <;> simp only [complete, startupDone_eq] <;> first | rfl | (split <;> rfl)
@[simp] theorem complete_tx : (complete o s).tx = s.tx := by
  cases o <;> simp only [complete, startupDone_eq] <;> first | rfl | (split <;> rfl)
@[simp] theorem complete_stopReq : (complete o s).stopReq = s.stopReq := by
  cases o <;> simp only [complete, startupDone_eq] <;> first | rfl | (split <;> rfl)
@[simp] theorem complete_halted : (complete o s).halted = s.halted := by
  cases o <;> simp only [complete, startupDone_eq] <;> first | rfl | (split <;> rfl)
@[simp] theorem complete_errOut : (complete o s).errOut = s.errOut := by
  cases o <;> simp only [complete, startupDone_eq] <;> first | rfl | (split <;> rfl)
@[simp] theorem complete_env : (complete o s).env = s.env := by
  cases o <;> simp only [complete, startupDone_eq] <;> first | rfl | (split <;> rfl)

end complete

section txAdvance

variable (s : State)

/-- `TxAdvance()` away from the end of a telegram moves the transmitter and nothing else (R125). -/
theorem txAdvance_of_not_ending (h : s.tx.state ≠ .ending) : txAdvance s = s.setTx (txNext s.cfg s.tx) := by
  simp [txAdvance, h]

/-- `TxAdvance()` at the end of a telegram frees the line and completes its owner (R125, R168). -/
theorem txAdvance_of_ending (h : s.tx.state = .ending) :
    txAdvance s = complete s.tx.owner (s.setTx { s.tx with state := .idle, owner := .none }) := by
  simp [txAdvance, txNext, h]

@[simp] theorem txAdvance_tx : (txAdvance s).tx = txNext s.cfg s.tx := by
  unfold txAdvance; dsimp only; split <;> simp
@[simp] theorem txAdvance_cfg : (txAdvance s).cfg = s.cfg := by unfold txAdvance; dsimp only; split <;> simp
@[simp] theorem txAdvance_slots : (txAdvance s).slots = s.slots := by unfold txAdvance; dsimp only; split <;> simp
@[simp] theorem txAdvance_queue : (txAdvance s).queue = s.queue := by unfold txAdvance; dsimp only; split <;> simp
@[simp] theorem txAdvance_cmdch : (txAdvance s).cmdch = s.cmdch := by unfold txAdvance; dsimp only; split <;> simp
@[simp] theorem txAdvance_ackch : (txAdvance s).ackch = s.ackch := by unfold txAdvance; dsimp only; split <;> simp
@[simp] theorem txAdvance_arbLast : (txAdvance s).arbLast = s.arbLast := by
  unfold txAdvance; dsimp only; split <;> simp
@[simp] theorem txAdvance_stopReq : (txAdvance s).stopReq = s.stopReq := by
  unfold txAdvance; dsimp only; split <;> simp
@[simp] theorem txAdvance_halted : (txAdvance s).halted = s.halted := by
  unfold txAdvance; dsimp only; split <;> simp
@[simp] theorem txAdvance_errOut : (txAdvance s).errOut = s.errOut := by
  unfold txAdvance; dsimp only; split <;> simp
@[simp] theorem txAdvance_env : (txAdvance s).env = s.env := by unfold txAdvance; dsimp only; split <;> simp

end txAdvance

/-- A transmission in flight does not become idle before its `END` (R125). -/
theorem txNext_ne_idle {c : Config} {t : Transmitter} (h1 : t.state ≠ .idle) (h2 : t.state ≠ .ending) :
    (txNext c t).state ≠ .idle := by
  unfold txNext
  cases h : t.state
  · exact absurd h h1
  · dsimp only; split <;> simp
  · dsimp only; split <;> simp
  · dsimp only; split
    · simp
    · split <;> simp
  · exact absurd h h2

/-! ### Sub-step B -/

section drainTick

variable (s : State)

@[simp] theorem drainTick_cfg : (drainTick s).cfg = s.cfg := by
  unfold drainTick; dsimp only; split
  · split <;> rfl
  · rfl
@[simp] theorem drainTick_slots : (drainTick s).slots = s.slots := by
  unfold drainTick; dsimp only; split
  · split <;> rfl
  · rfl
@[simp] theorem drainTick_cmdch : (drainTick s).cmdch = s.cmdch := by
  unfold drainTick; dsimp only; split
  · split <;> rfl
  · rfl
@[simp] theorem drainTick_ackch : (drainTick s).ackch = s.ackch := by
  unfold drainTick; dsimp only; split
  · split <;> rfl
  · rfl
@[simp] theorem drainTick_snd : (drainTick s).snd = s.snd := by
  unfold drainTick; dsimp only; split
  · split <;> rfl
  · rfl
@[simp] theorem drainTick_su : (drainTick s).su = s.su := by
  unfold drainTick; dsimp only; split
  · split <;> rfl
  · rfl
@[simp] theorem drainTick_arbLast : (drainTick s).arbLast = s.arbLast := by
  unfold drainTick; dsimp only; split
  · split <;> rfl
  · rfl
@[simp] theorem drainTick_tx : (drainTick s).tx = s.tx := by
  unfold drainTick; dsimp only; split
  · split <;> rfl
  · rfl
@[simp] theorem drainTick_stopReq : (drainTick s).stopReq = s.stopReq := by
  unfold drainTick; dsimp only; split
  · split <;> rfl
  · rfl
@[simp] theorem drainTick_halted : (drainTick s).halted = s.halted := by
  unfold drainTick; dsimp only; split
  · split <;> rfl
  · rfl
@[simp] theorem drainTick_errOut : (drainTick s).errOut = s.errOut := by
  unfold drainTick; dsimp only; split
  · split <;> rfl
  · rfl
@[simp] theorem drainTick_env : (drainTick s).env = s.env := by
  unfold drainTick; dsimp only; split
  · split <;> rfl
  · rfl

/-- What the drain's tick can do (R165, R166): only its counter moves, or the head entry leaves the queue for its frame. -/
theorem drainTick_cases :
    (drainTick s = s.setDrn { s.drn with tick := (tickFires s.drn.tick s.cfg.accPeriod).2 })
    ∨ (s.drn.state = .sleep ∧ s.drn.tick = 0 ∧ ∃ e rest, s.queue = e :: rest
      ∧ drainTick s = (s.setQueue rest).setDrn
        { state := .wait, frame := (encodeAccessory e.addr e.dev e.ctl e.en).1
          tick := (tickFires s.drn.tick s.cfg.accPeriod).2 }) := by
  unfold drainTick
  dsimp only
  split
  · rename_i h
    cases hq : s.queue with
    | nil => exact .inl (by simp [qDequeueFront])
    | cons e rest =>
      refine .inr ⟨h.2, ?_, e, rest, rfl, by simp [qDequeueFront]⟩
      by_contra h0
      simp [tickFires, h0] at h
  · exact .inl rfl

end drainTick

@[simp] theorem senderTicks_length (ls : List LocoCfg) (rs : List Slot) (ds : List Sender) :
    (senderTicks ls rs ds).length = ds.length := by
  induction ls generalizing rs ds with
  | nil => rfl
  | cons l ls ih =>
    cases rs with
    | nil => rfl
    | cons r rs =>
      cases ds with
      | nil => rfl
      | cons d ds => simp [senderTicks, ih]

/-- Each sender ticks on its own parameters and slot (R160, R163). -/
theorem senderTicks_getElem? {ls : List LocoCfg} {rs : List Slot} {ds : List Sender} {i : Nat} {l : LocoCfg} {r : Slot}
    {d : Sender} (hl : ls[i]? = some l) (hr : rs[i]? = some r) (hd : ds[i]? = some d) :
    (senderTicks ls rs ds)[i]? = some (senderTick l r d) := by
  induction ls generalizing rs ds i with
  | nil => simp at hl
  | cons l' ls ih =>
    cases rs with
    | nil => simp at hr
    | cons r' rs =>
      cases ds with
      | nil => simp at hd
      | cons d' ds =>
        cases i with
        | zero =>
          simp only [List.getElem?_cons_zero, Option.some.injEq] at hl hr hd
          subst hl hr hd; rfl
        | succ i =>
          simp only [List.getElem?_cons_succ] at hl hr hd
          simpa [senderTicks] using ih hl hr hd

/-- What a tick can do to a sender, whatever the lists' lengths: nothing, or its own `SenderTick` (R163). -/
theorem senderTicks_getElem?_cases {ls : List LocoCfg} {rs : List Slot} {ds : List Sender} {i : Nat} {e : Sender}
    (h : (senderTicks ls rs ds)[i]? = some e) :
    ∃ d, ds[i]? = some d ∧ (e = d ∨ ∃ l r, ls[i]? = some l ∧ rs[i]? = some r ∧ e = senderTick l r d) := by
  induction ls generalizing rs ds i with
  | nil => exact ⟨e, h, .inl rfl⟩
  | cons l' ls ih =>
    cases rs with
    | nil => exact ⟨e, h, .inl rfl⟩
    | cons r' rs =>
      cases ds with
      | nil => simp [senderTicks] at h
      | cons d' ds =>
        cases i with
        | zero =>
          simp only [senderTicks, List.getElem?_cons_zero, Option.some.injEq] at h
          exact ⟨d', rfl, .inr ⟨l', r', rfl, rfl, h.symm⟩⟩
        | succ i =>
          simp only [senderTicks, List.getElem?_cons_succ] at h
          simpa using ih h

/-- What `SenderTick` can do (R163, R164). -/
theorem senderTick_cases (l : LocoCfg) (r : Slot) (d : Sender) :
    (senderTick l r d = { d with tick := (tickFires d.tick l.period).2 })
    ∨ (d.state = .sleep ∧ d.tick = 0 ∧ senderTick l r d =
        { state := .wait, frame := (encodeLocomotive r.addr r.speed r.dir r.light).1
          tick := (tickFires d.tick l.period).2 }) := by
  unfold senderTick
  dsimp only
  split
  · rename_i h
    refine .inr ⟨h.2, ?_, rfl⟩
    by_contra h0
    simp [tickFires, h0] at h
  · exact .inl rfl

section ticks

variable (s : State)

@[simp] theorem ticks_cfg : (ticks s).cfg = s.cfg := by simp [ticks]
@[simp] theorem ticks_slots : (ticks s).slots = s.slots := by simp [ticks]
@[simp] theorem ticks_cmdch : (ticks s).cmdch = s.cmdch := by simp [ticks]
@[simp] theorem ticks_ackch : (ticks s).ackch = s.ackch := by simp [ticks]
@[simp] theorem ticks_snd : (ticks s).snd = senderTicks s.cfg.locos s.slots s.snd := by simp [ticks]
@[simp] theorem ticks_su : (ticks s).su = s.su := by simp [ticks]
@[simp] theorem ticks_arbLast : (ticks s).arbLast = s.arbLast := by simp [ticks]
@[simp] theorem ticks_tx : (ticks s).tx = s.tx := by simp [ticks]
@[simp] theorem ticks_stopReq : (ticks s).stopReq = s.stopReq := by simp [ticks]
@[simp] theorem ticks_halted : (ticks s).halted = s.halted := by simp [ticks]
@[simp] theorem ticks_errOut : (ticks s).errOut = s.errOut := by simp [ticks]
@[simp] theorem ticks_env : (ticks s).env = s.env := by simp [ticks]

end ticks

section advanceAndTick

variable (s : State)

@[simp] theorem advanceAndTick_cfg : (advanceAndTick s).cfg = s.cfg := by
  unfold advanceAndTick; dsimp only; split <;> simp
@[simp] theorem advanceAndTick_slots : (advanceAndTick s).slots = s.slots := by
  unfold advanceAndTick; dsimp only; split <;> simp
@[simp] theorem advanceAndTick_cmdch : (advanceAndTick s).cmdch = s.cmdch := by
  unfold advanceAndTick; dsimp only; split <;> simp
@[simp] theorem advanceAndTick_ackch : (advanceAndTick s).ackch = s.ackch := by
  unfold advanceAndTick; dsimp only; split <;> simp
@[simp] theorem advanceAndTick_arbLast : (advanceAndTick s).arbLast = s.arbLast := by
  unfold advanceAndTick; dsimp only; split <;> simp
@[simp] theorem advanceAndTick_tx : (advanceAndTick s).tx = txNext s.cfg s.tx := by
  unfold advanceAndTick; dsimp only; split <;> simp
@[simp] theorem advanceAndTick_stopReq : (advanceAndTick s).stopReq = s.stopReq := by
  unfold advanceAndTick; dsimp only; split <;> simp
@[simp] theorem advanceAndTick_halted : (advanceAndTick s).halted = s.halted := by
  unfold advanceAndTick; dsimp only; split <;> simp
@[simp] theorem advanceAndTick_errOut : (advanceAndTick s).errOut = s.errOut := by
  unfold advanceAndTick; dsimp only; split <;> simp
@[simp] theorem advanceAndTick_env : (advanceAndTick s).env = s.env := by
  unfold advanceAndTick; dsimp only; split <;> simp

end advanceAndTick

/-! ### Sub-step C -/

/-- What the handler leaves alone: everything but the store, the acknowledgement channel and the error output. -/
structure HandlerFrame (s t : State) : Prop where
  cfg     : t.cfg = s.cfg
  cmdch   : t.cmdch = s.cmdch
  snd     : t.snd = s.snd
  drn     : t.drn = s.drn
  su      : t.su = s.su
  arbLast : t.arbLast = s.arbLast
  tx      : t.tx = s.tx
  stopReq : t.stopReq = s.stopReq
  halted  : t.halted = s.halted
  env     : t.env = s.env

theorem HandlerFrame.refl (s : State) : HandlerFrame s s := ⟨rfl, rfl, rfl, rfl, rfl, rfl, rfl, rfl, rfl, rfl⟩

theorem raise_frame (k : ErrKind) (w : Word) (s : State) : HandlerFrame s (raise k w s) :=
  ⟨rfl, rfl, rfl, rfl, rfl, rfl, rfl, rfl, rfl, rfl⟩

theorem sendAck_frame (w : Word) (s : State) : HandlerFrame s (sendAck w s) := by
  rcases sendAck_cases w s with ⟨_, h⟩ | ⟨_, h⟩ <;> rw [h] <;> exact ⟨rfl, rfl, rfl, rfl, rfl, rfl, rfl, rfl, rfl, rfl⟩

@[simp] theorem sendAck_slots (w : Word) (s : State) : (sendAck w s).slots = s.slots := by
  rcases sendAck_cases w s with ⟨_, h⟩ | ⟨_, h⟩ <;> rw [h] <;> rfl

@[simp] theorem sendAck_queue (w : Word) (s : State) : (sendAck w s).queue = s.queue := by
  rcases sendAck_cases w s with ⟨_, h⟩ | ⟨_, h⟩ <;> rw [h] <;> rfl

/-- What a popped word can do to the store (R192 to R196). -/
inductive StoreEffect (s : State) : Instr → State → Prop
  | rejected (i : Instr) (k : ErrKind) (w : Word) (hk : k ≠ .deliveryTimeout) : StoreEffect s i (raise k w s)
  | slot (ack : BitVec 1) (addr : BitVec 7) (dir light : BitVec 1) (speed : BitVec 4) (i : Nat)
      (h : lookup addr s = some i) :
      StoreEffect s (.cmdLoco ack addr dir light speed)
        (sendAck (locoWord addr speed dir light ack) (slotWrite i speed dir light s))
  | entry (ack : BitVec 1) (addr : BitVec 9) (ctl : BitVec 1) (dev : BitVec 2) (en : BitVec 1)
      (h : (qEnqueueOrUpdate s.cfg.accQDepth { addr := addr, dev := dev, ctl := ctl, en := en } s.queue).1 ≠ .full) :
      StoreEffect s (.cmdAcc ack addr ctl dev en)
        (sendAck (accWord addr dev ctl en ack)
          (s.setQueue (qEnqueueOrUpdate s.cfg.accQDepth { addr := addr, dev := dev, ctl := ctl, en := en } s.queue).2))

/-- Every command word answers, in one of those ways (R198). -/
theorem exec_command_cases (w : Word) (s : State) :
    ∃ t, exec (decodeCommand w) s = .next t ∧ StoreEffect s (decodeCommand w) t := by
  unfold decodeCommand
  split
  · simp only [exec, execCmdLoco]
    split
    · exact ⟨_, rfl, .rejected _ _ _ (by decide)⟩
    · rename_i i h
      exact ⟨_, rfl, .slot _ _ _ _ _ i h⟩
  · split
    · simp only [exec, execCmdAcc]
      generalize hq : qEnqueueOrUpdate s.cfg.accQDepth
        { addr := accAddr w, dev := accDev w, ctl := accCtl w, en := accEn w } s.queue = p
      obtain ⟨a, q⟩ := p
      cases a
      · exact ⟨_, rfl, by simpa [hq] using StoreEffect.entry (s := s) (ackBit w) (accAddr w) (accCtl w) (accDev w) (accEn w) (by simp [hq])⟩
      · exact ⟨_, rfl, by simpa [hq] using StoreEffect.entry (s := s) (ackBit w) (accAddr w) (accCtl w) (accDev w) (accEn w) (by simp [hq])⟩
      · exact ⟨_, rfl, .rejected _ _ _ (by decide)⟩
    · split
      · exact ⟨_, rfl, .rejected _ _ _ (by decide)⟩
      · exact ⟨_, rfl, .rejected _ _ _ (by decide)⟩

theorem StoreEffect.frame {s t : State} {i : Instr} (h : StoreEffect s i t) : HandlerFrame s t := by
  cases h with
  | rejected k w _ => exact raise_frame _ _ _
  | slot ack addr dir light speed i _ => have h := sendAck_frame (locoWord addr speed dir light ack) (slotWrite i speed dir light s)
                                         exact ⟨h.cfg, h.cmdch, h.snd, h.drn, h.su, h.arbLast, h.tx, h.stopReq, h.halted, h.env⟩
  | entry ack addr ctl dev en _ =>
    have h := sendAck_frame (accWord addr dev ctl en ack)
      (s.setQueue (qEnqueueOrUpdate s.cfg.accQDepth { addr := addr, dev := dev, ctl := ctl, en := en } s.queue).2)
    exact ⟨h.cfg, h.cmdch, h.snd, h.drn, h.su, h.arbLast, h.tx, h.stopReq, h.halted, h.env⟩

/-- Sub-step C (R190): nothing, or one word popped and its effect. -/
theorem handlerStep_cases (s : State) :
    (chanPopWord s.cmdch = none ∧ handlerStep s = .next s)
    ∨ ∃ w rest t, chanPopWord s.cmdch = some (w, rest) ∧ handlerStep s = .next t
        ∧ exec (decodeCommand w) (s.setCmdch rest) = .next t ∧ StoreEffect (s.setCmdch rest) (decodeCommand w) t := by
  unfold handlerStep
  cases h : chanPopWord s.cmdch with
  | none => exact .inl ⟨rfl, rfl⟩
  | some p =>
    obtain ⟨w, rest⟩ := p
    obtain ⟨t, h1, h2⟩ := exec_command_cases w (s.setCmdch rest)
    exact .inr ⟨w, rest, t, rfl, h1, h1, h2⟩

/-! ### Sub-steps D and E -/

section haltCheck

variable (s : State)

theorem haltCheck_eq : haltCheck s = if s.stopReq = true ∧ s.tx.state = .idle then s.setHalted true else s := rfl
@[simp] theorem haltCheck_cfg : (haltCheck s).cfg = s.cfg := by unfold haltCheck; split <;> rfl
@[simp] theorem haltCheck_slots : (haltCheck s).slots = s.slots := by unfold haltCheck; split <;> rfl
@[simp] theorem haltCheck_queue : (haltCheck s).queue = s.queue := by unfold haltCheck; split <;> rfl
@[simp] theorem haltCheck_cmdch : (haltCheck s).cmdch = s.cmdch := by unfold haltCheck; split <;> rfl
@[simp] theorem haltCheck_ackch : (haltCheck s).ackch = s.ackch := by unfold haltCheck; split <;> rfl
@[simp] theorem haltCheck_snd : (haltCheck s).snd = s.snd := by unfold haltCheck; split <;> rfl
@[simp] theorem haltCheck_drn : (haltCheck s).drn = s.drn := by unfold haltCheck; split <;> rfl
@[simp] theorem haltCheck_su : (haltCheck s).su = s.su := by unfold haltCheck; split <;> rfl
@[simp] theorem haltCheck_arbLast : (haltCheck s).arbLast = s.arbLast := by unfold haltCheck; split <;> rfl
@[simp] theorem haltCheck_tx : (haltCheck s).tx = s.tx := by unfold haltCheck; split <;> rfl
@[simp] theorem haltCheck_stopReq : (haltCheck s).stopReq = s.stopReq := by unfold haltCheck; split <;> rfl
@[simp] theorem haltCheck_errOut : (haltCheck s).errOut = s.errOut := by unfold haltCheck; split <;> rfl
@[simp] theorem haltCheck_env : (haltCheck s).env = s.env := by unfold haltCheck; split <;> rfl

end haltCheck

/-! ### The host -/

section hostWrite

variable (w : Word) (s : State)

/-- What a write can do (R211): nothing, or two bytes more on the command channel. -/
theorem hostWrite_cases :
    (hostWrite w s).2 = s
    ∨ (s.cmdch.length + 2 ≤ s.cfg.chanCapBytes ∧ (hostWrite w s).2 = s.setCmdch (s.cmdch ++ wordBytes w)) := by
  unfold hostWrite
  split
  · exact .inl rfl
  · split
    · rename_i ch h
      obtain ⟨h1, rfl⟩ := chanPushWord_eq_some.mp h
      exact .inr ⟨h1, rfl⟩
    · exact .inl rfl

/-- What a read can do (R212): nothing, or two bytes fewer on the acknowledgement channel. -/
theorem hostRead_cases :
    (hostRead s).2 = s ∨ ∃ v rest, chanPopWord s.ackch = some (v, rest) ∧ (hostRead s).2 = s.setAckch rest := by
  unfold hostRead
  split
  · exact .inl rfl
  · split
    · rename_i v rest h
      exact .inr ⟨v, rest, h, rfl⟩
    · exact .inl rfl

end hostWrite

/-- What the host can reach between two steps (R210, R214): the channels, the stop request and its own side. -/
structure HostFrame (s t : State) : Prop where
  cfg     : t.cfg = s.cfg
  slots   : t.slots = s.slots
  queue   : t.queue = s.queue
  snd     : t.snd = s.snd
  drn     : t.drn = s.drn
  su      : t.su = s.su
  arbLast : t.arbLast = s.arbLast
  tx      : t.tx = s.tx
  halted  : t.halted = s.halted
  errOut  : t.errOut = s.errOut
  rstIn   : t.env.rstIn = s.env.rstIn
  stopReq : s.stopReq = true → t.stopReq = true

theorem HostFrame.refl (s : State) : HostFrame s s :=
  ⟨rfl, rfl, rfl, rfl, rfl, rfl, rfl, rfl, rfl, rfl, rfl, id⟩

theorem HostFrame.trans {s t u : State} (h : HostFrame s t) (k : HostFrame t u) : HostFrame s u where
  cfg := k.cfg.trans h.cfg
  slots := k.slots.trans h.slots
  queue := k.queue.trans h.queue
  snd := k.snd.trans h.snd
  drn := k.drn.trans h.drn
  su := k.su.trans h.su
  arbLast := k.arbLast.trans h.arbLast
  tx := k.tx.trans h.tx
  halted := k.halted.trans h.halted
  errOut := k.errOut.trans h.errOut
  rstIn := k.rstIn.trans h.rstIn
  stopReq := fun a => k.stopReq (h.stopReq a)

/-- What the host's actions preserve is preserved by each of them: the one induction over the host's program. -/
theorem runProg_induction {P : State → Prop} (hw : ∀ w s, P s → P (hostWrite w s).2) (hr : ∀ s, P s → P (hostRead s).2)
    (hs : ∀ s, P s → P (hostStop s))
    (he : ∀ (s : State) (e : Env), e.rstIn = s.env.rstIn → P s → P (s.setEnv e)) (p : List HostOp) (s : State) (h : P s) :
    P (runProg p s) := by
  induction p generalizing s with
  | nil => exact he _ _ rfl h
  | cons a p ih =>
    cases a with
    | write w => exact ih _ (he _ _ rfl (hw _ _ h))
    | read => exact ih _ (he _ _ rfl (hr _ h))
    | stop => exact ih _ (hs _ h)
    | step n =>
      cases n with
      | zero => exact ih _ h
      | succ n => exact he _ _ rfl h
    | send w attempts os =>
      simp only [runProg]
      split
      · exact ih _ (he _ _ rfl h)
      · exact he _ _ rfl (he _ _ rfl (hw _ _ h))

/-- The same for everything that happens before a clock edge. -/
theorem beforeEdge_induction {P : State → Prop} (hw : ∀ w s, P s → P (hostWrite w s).2)
    (hr : ∀ s, P s → P (hostRead s).2) (hs : ∀ s, P s → P (hostStop s))
    (he : ∀ (s : State) (e : Env), e.rstIn = s.env.rstIn → P s → P (s.setEnv e)) (s : State)
    (h : P (s.setErrOut none)) : P (beforeEdge s) := by
  have hc : P (clearOutputs s) := he _ _ rfl h
  have ha : ∀ c t, P t → P (finishAttempt c t) := by
    intro c t ht
    unfold finishAttempt
    dsimp only
    split
    · exact he _ _ rfl (he _ _ rfl (hr _ ht))
    · split
      · exact he _ _ rfl (he _ _ rfl (hr _ ht))
      · exact he _ _ rfl (hw _ _ (hr _ ht))
  have h1 : P (clientTurn (clearOutputs s)) := by
    unfold clientTurn
    split
    · split
      · exact ha _ _ hc
      · exact hc
    · exact hc
  have ht : P (hostTurn (clearOutputs s)) := by
    unfold hostTurn
    dsimp only
    split
    · exact h1
    · exact runProg_induction hw hr hs he _ _ h1
  unfold beforeEdge passTime
  split
  · exact he _ _ rfl ht
  · exact ht

/-- Nothing before a clock edge reaches the block beyond its channels and the stop request (R210, R214). -/
theorem beforeEdge_frame (s : State) : HostFrame (s.setErrOut none) (beforeEdge s) := by
  refine beforeEdge_induction (P := HostFrame (s.setErrOut none)) ?_ ?_ ?_ ?_ s (HostFrame.refl _)
  · intro w t ht
    rcases hostWrite_cases w t with h | ⟨_, h⟩ <;> rw [h]
    · exact ht
    · exact ht.trans ⟨rfl, rfl, rfl, rfl, rfl, rfl, rfl, rfl, rfl, rfl, rfl, id⟩
  · intro t ht
    rcases hostRead_cases t with h | ⟨_, _, _, h⟩ <;> rw [h]
    · exact ht
    · exact ht.trans ⟨rfl, rfl, rfl, rfl, rfl, rfl, rfl, rfl, rfl, rfl, rfl, id⟩
  · intro t ht
    exact ht.trans ⟨rfl, rfl, rfl, rfl, rfl, rfl, rfl, rfl, rfl, rfl, rfl, fun _ => rfl⟩
  · intro t e hre ht
    exact ht.trans ⟨rfl, rfl, rfl, rfl, rfl, rfl, rfl, rfl, rfl, rfl, hre, id⟩

end Sys2Proof.Machine
end

