-- ==== Sys2Proof/Laws/Step.lean ====
section
/-! SUPPORT. What one step of the machine can do, said once: the inversion lemma from which invariants follow. -/

namespace Sys2Proof.Machine

open Sys2Proof.Safety

/-- Executing what a telegram decodes to is transmitting a telegram (R83). -/
theorem exec_telegram {t : Telegram} {i : Instr} (h : decodeTelegram t = .ok i) (s : State) :
    ∃ u, encode i = .t64 u ∧ exec i s = transmit u s := by
  unfold decodeTelegram at h
  dsimp only at h
  split at h
  · cases h
  split at h
  · cases h
  split at h
  · cases h
  split at h
  · cases h
  split at h
  · cases h; exact ⟨_, rfl, rfl⟩
  split at h
  · cases h; exact ⟨_, rfl, rfl⟩
  split at h
  · cases h; exact ⟨_, rfl, rfl⟩
  split at h
  · cases h; exact ⟨_, rfl, rfl⟩
  · cases h

/-- The arbiter's sub-step always answers, and it grants the line or changes nothing (R171). -/
theorem arbitrate_cases (s : State) :
    arbitrate s = .next s
    ∨ ∃ o t, offered s = some (o, t) ∧ arbitrate s = .next ((claim o s).setTx (grantedTx o t s)) := by
  unfold arbitrate
  cases h : offered s with
  | none => exact .inl rfl
  | some p =>
    obtain ⟨o, t⟩ := p
    cases hd : decodeTelegram t with
    | error e => exact .inr ⟨o, t, rfl, by simp [hd, grantTo_eq]⟩
    | ok i =>
      obtain ⟨u, _, hu⟩ := exec_telegram hd s
      rcases transmit_cases u s with ⟨o', h1, h2⟩ | ⟨_, h2⟩
      · rw [h] at h1
        simp only [Option.some.injEq, Prod.mk.injEq] at h1
        obtain ⟨rfl, rfl⟩ := h1
        exact .inr ⟨o, t, rfl, by simp [hd, hu, h2]⟩
      · exact .inl (by simp [hd, hu, h2])

/-- The clock edge of a step that is no reset step (R260). -/
theorem clockEdge_of_noReset {s : State} (h : NoReset s) : clockEdge (beforeEdge s) = blockStep (atEdge s) := by
  have hr : (beforeEdge s).env.rstIn = s.env.rstIn := (beforeEdge_frame s).rstIn
  unfold NoReset at h
  unfold clockEdge atEdge
  rw [hr]
  cases hs : s.env.rstIn with
  | nil =>
    rw [hs] at hr
    dsimp only [List.tail]
    congr 1
    conv_lhs => rw [show beforeEdge s = (beforeEdge s).setEnv (beforeEdge s).env from rfl]
    congr 1
    conv_lhs => rw [show (beforeEdge s).env = { (beforeEdge s).env with rstIn := (beforeEdge s).env.rstIn } from rfl]
    rw [hr]
  | cons b r =>
    rw [hs] at h
    simp only [List.headD] at h
    subst h
    dsimp only
    rw [hr, hs]
    rfl

/-- A step that is no reset step is the block's step at the clock edge (R160, R210). -/
theorem step_of_noReset {s : State} (hl : s.cfg.legal = true) (h : NoReset s) : step s = blockStep (atEdge s) := by
  simp only [step, machineStep, hl, if_true]
  exact clockEdge_of_noReset h

/-- What the clock edge leaves of the state before it, beside the host's doings (R210, R214). -/
theorem atEdge_frame (s : State) :
    (atEdge s).cfg = s.cfg ∧ (atEdge s).slots = s.slots ∧ (atEdge s).queue = s.queue ∧ (atEdge s).snd = s.snd
    ∧ (atEdge s).drn = s.drn ∧ (atEdge s).su = s.su ∧ (atEdge s).arbLast = s.arbLast ∧ (atEdge s).tx = s.tx
    ∧ (atEdge s).halted = s.halted ∧ (atEdge s).errOut = none := by
  have h := beforeEdge_frame s
  exact ⟨h.cfg, h.slots, h.queue, h.snd, h.drn, h.su, h.arbLast, h.tx, h.halted, h.errOut⟩

/-- A running block's step (R160): A and B, then nothing or a command word's effect, then nothing or a grant, then the halt
check. -/
inductive BlockStep (s : State) : State → Prop
  | halted (h : s.halted = true) : BlockStep s s
  | run (t u : State) (hh : s.halted = false)
      (hc : t = advanceAndTick s
        ∨ (s.stopReq = false ∧ ∃ w rest, chanPopWord s.cmdch = some (w, rest)
            ∧ exec (decodeCommand w) ((advanceAndTick s).setCmdch rest) = .next t
            ∧ StoreEffect ((advanceAndTick s).setCmdch rest) (decodeCommand w) t))
      (hd : u = t ∨ ∃ o f, offered t = some (o, f) ∧ u = (claim o t).setTx (grantedTx o f t)) :
      BlockStep s (haltCheck u)

theorem blockStep_cases (s : State) : ∃ t, blockStep s = .next t ∧ BlockStep s t := by
  unfold blockStep
  by_cases hh : s.halted = true
  · exact ⟨s, by simp [hh], .halted hh⟩
  · rw [Bool.not_eq_true] at hh
    have key : ∃ t, (if (advanceAndTick s).stopReq = true then Host.Outcome.next (advanceAndTick s)
          else handlerStep (advanceAndTick s)) = .next t
        ∧ (t = advanceAndTick s ∨ (s.stopReq = false ∧ ∃ w rest, chanPopWord s.cmdch = some (w, rest)
            ∧ exec (decodeCommand w) ((advanceAndTick s).setCmdch rest) = .next t
            ∧ StoreEffect ((advanceAndTick s).setCmdch rest) (decodeCommand w) t)) := by
      by_cases hs : s.stopReq = true
      · exact ⟨_, by simp [hs], .inl rfl⟩
      · rw [Bool.not_eq_true] at hs
        rcases handlerStep_cases (advanceAndTick s) with ⟨_, h⟩ | ⟨w, rest, t, hp, h, he, hx⟩
        · exact ⟨_, by simp [hs, h], .inl rfl⟩
        · rw [advanceAndTick_cmdch] at hp
          exact ⟨t, by simp [hs, h], .inr ⟨hs, w, rest, hp, he, hx⟩⟩
    obtain ⟨t, ht, hc⟩ := key
    rcases arbitrate_cases t with h | ⟨o, f, ho, h⟩
    · refine ⟨haltCheck t, ?_, .run t t hh hc (.inl rfl)⟩
      rw [if_neg (by simp [hh])]
      dsimp only
      rw [ht]
      simp [andThen, h]
    · refine ⟨haltCheck ((claim o t).setTx (grantedTx o f t)), ?_, .run t _ hh hc (.inr ⟨o, f, ho, rfl⟩)⟩
      rw [if_neg (by simp [hh])]
      dsimp only
      rw [ht]
      simp [andThen, h]

/-- What a step can do: a reset step, or the host's turn and then a step of the block. -/
theorem step_cases {s t : State} (h : step s = .next t) :
    s.cfg.legal = true
    ∧ ((∃ r, s.env.rstIn = true :: r ∧ t = resetStep ((beforeEdge s).setEnv { (beforeEdge s).env with rstIn := r }))
      ∨ (NoReset s ∧ BlockStep (atEdge s) t)) := by
  unfold step machineStep at h
  split at h
  · rename_i hl
    refine ⟨hl, ?_⟩
    by_cases hn : NoReset s
    · rw [clockEdge_of_noReset hn] at h
      obtain ⟨t', h1, h2⟩ := blockStep_cases (atEdge s)
      rw [h1] at h
      cases h
      exact .inr ⟨hn, h2⟩
    · have hr : (beforeEdge s).env.rstIn = s.env.rstIn := (beforeEdge_frame s).rstIn
      unfold NoReset at hn
      cases hs : s.env.rstIn with
      | nil => rw [hs] at hn; exact absurd rfl hn
      | cons b r =>
        cases b with
        | false => rw [hs] at hn; exact absurd rfl hn
        | true =>
          rw [hs] at hr
          unfold clockEdge at h
          rw [hr] at h
          cases h
          exact .inl ⟨r, rfl, rfl⟩
  · cases h

end Sys2Proof.Machine
end

