-- ==== Sys2Proof/Tests/Slice0.lean ====
section
/-! SUPPORT. Tests of the model against values the spec gives (`95_test_vectors.md` and the rules named), and for each statement
of `Certificates/Slice0/Obligations.lean` with hypotheses a witness that meets them. -/

namespace Sys2Proof.Tests

open Sys2Proof.Machine Sys2Proof.Safety

/-! ### Helpers -/

def isNext : Result → Bool
  | .next _ => true
  | .fault _ => false
  | .refused _ => false

def nextOf : Result → State
  | .next s => s
  | .fault _ => State.reset
  | .refused _ => State.reset

theorem eq_next_of_isNext {r : Result} (h : isNext r = true) : r = .next (nextOf r) := by
  cases r with
  | next s => rfl
  | fault f => cases f
  | refused q => cases h

def okInstr : Except DecodeError Instr → Option Instr
  | .ok i => some i
  | .error _ => none

/-- Two locomotives, short times, no startup telegrams; the slots and capacities of V-H1, the channel capacity of P3. -/
def cfgA : Config where
  locos := [{ addr := 3, speed := 0, dir := 0, light := 0, period := 9, phase := 0 },
            { addr := 10, speed := 0, dir := 0, light := 0, period := 9, phase := 4 }]
  accQDepth := 2
  cycPerUs := 1
  t1HalfUs := 1
  t0HalfUs := 2
  tSettleUs := 3
  startupResetCount := 0
  startupIdleCount := 0
  accPeriod := 9
  accPhase := 0
  chanCapBytes := 4
  ackGraceMs := 1
  defaultAttempts := 3

/-- `cfgA` with one Reset and one Idle telegram at startup. -/
def cfgB : Config := { cfgA with startupResetCount := 1, startupIdleCount := 1 }

def stA : State := State.resetOf cfgA
def stB : State := State.resetOf cfgB

/-- The queue of V-H1 after step 8: full. -/
def fullQueue : List AccEntry :=
  [{ addr := 5, dev := 2, ctl := 0, en := 0 }, { addr := 6, dev := 0, ctl := 0, en := 1 }]

/-- `stA` with a full queue. -/
def stQ : State := stA.setQueue fullQueue

/-- `stQ` with a full acknowledgement channel (P3 step 4). -/
def stF : State := stQ.setAckch [0xD2#8, 0xA0#8, 0xD3#8, 0xA0#8]

/-- `stA` with sender 0 waiting with the telegram of (3, 7, 1, 0) (R163) and the drain with that of (5, 2, 1, 1) (R165). -/
def stW : State :=
  (stA.setSnd [{ state := .wait, frame := 0x000003FFF0199CC9, tick := 8 }, { state := .sleep, frame := 0, tick := 3 }]).setDrn
    { state := .wait, frame := 0x000003FFF42BF4F1, tick := 8 }

/-- `stW` with the drain next in turn. -/
def stD : State := stW.setArbLast 1

/-- `stA` with sender 1's telegram on the line, in the high half of bit 13 (the first start bit is bit 14). -/
def stT : State :=
  (stA.setSnd [{ state := .sleep, frame := 0, tick := 0 }, { state := .tx, frame := 0x000003FFF0510095, tick := 5 }]).setTx
    { owner := .loco 1, state := .hi, frame := 0x000003FFF0510095, len := 42, idx := 28, cnt := 1 }

/-- `stW` at the end of a telegram of sender 1. -/
def stE : State :=
  (stW.setSnd [{ state := .wait, frame := 0x000003FFF0199CC9, tick := 8 }, { state := .tx, frame := 0, tick := 3 }]).setTx
    { owner := .loco 1, state := .ending, frame := 0x000003FFF0510095, len := 42, idx := 0, cnt := 1 }

/-- `stB` at the end of its last startup telegram. -/
def stL : State :=
  (stB.setSu { resetLeft := 0, idleLeft := 1, done := false }).setTx
    { owner := .su, state := .ending, frame := 0x000003FFF7F801FF, len := 42, idx := 0, cnt := 1 }

/-! ### Well-formedness: each check refuses an ill-formed term -/

theorem test_wellFormed_tgLoco : (Instr.tgLoco 3 1 0 7 0x64).wellFormed = true := by decide
theorem test_illFormed_tgLoco : (Instr.tgLoco 3 1 0 7 0x65).wellFormed = false := by decide
theorem test_wellFormed_tgAcc : (Instr.tgAcc 5 1 2 1 0x78).wellFormed = true := by decide
theorem test_illFormed_tgAcc : (Instr.tgAcc 5 1 2 1 0x38).wellFormed = false := by decide

/-! ### Decoding: words written out bit by bit from R73, R74, R77, R78, R80, R81, R85, R104, R105 -/

-- ack, type, address, direction, light, speed (V-D1)
theorem test_decode_cmdLoco :
    decodeCommand 0b0_01_0000011_1_0_0111#16 = .cmdLoco 0 3 1 0 7 := by decide
-- ack, type, address, control, device, enable (V-D1)
theorem test_decode_cmdAcc :
    decodeCommand 0b0_10_000000101_1_10_1#16 = .cmdAcc 0 5 1 2 1 := by decide
theorem test_decode_cmdBad00 : decodeCommand 0b0_00_1111111111111#16 = .cmdBad00 0 0x1FFF := by decide
theorem test_decode_cmdBad11 : decodeCommand 0b1_11_0000100100011#16 = .cmdBad11 1 0x123 := by decide
theorem test_decode_ackLoco :
    okInstr (decodeAck 0b1_01_0000011_1_0_0111#16) = some (.ackLoco 3 1 0 7) := by decide
theorem test_decode_ackAcc :
    okInstr (decodeAck 0b1_10_000000101_1_10_1#16) = some (.ackAcc 5 1 2 1) := by decide
-- reserved, preamble, start, address byte, start, command byte, start, checksum byte, stop (V-E3)
theorem test_decode_tgLoco :
    okInstr (decodeTelegram 0b0000000000000000000000_11111111111111_0_00000011_0_01100111_0_01100100_1#64)
      = some (.tgLoco 3 1 0 7 0x64) := by decide
-- (V-E4)
theorem test_decode_tgAcc :
    okInstr (decodeTelegram 0b0000000000000000000000_11111111111111_0_10000101_0_11111101_0_01111000_1#64)
      = some (.tgAcc 5 1 2 1 0x78) := by decide
-- (V-C3)
theorem test_decode_tgIdle :
    okInstr (decodeTelegram 0b0000000000000000000000_11111111111111_0_11111111_0_00000000_0_11111111_1#64)
      = some .tgIdle := by decide
theorem test_decode_tgReset :
    okInstr (decodeTelegram 0b0000000000000000000000_11111111111111_0_00000000_0_00000000_0_00000000_1#64)
      = some .tgReset := by decide

-- address 448 has high bits 111, complemented on the line (V-C2)
theorem test_decode_tgAcc_high :
    okInstr (decodeTelegram 0x000003FFF4021009#64) = some (.tgAcc 448 0 2 0 0x04) := by decide
-- an acknowledgement has bit 15 = 1 and type 1 or 2 (R77)
theorem test_decodeAck_refuses :
    decodeAck 0x20E7#16 = .error .ackBitClear ∧ decodeAck 0xE123#16 = .error .ackType := ⟨rfl, rfl⟩
-- one reserved encoding per name (R78, R83); address byte 11111110 belongs to no kind
theorem test_decodeTelegram_refuses :
    decodeTelegram 0x000007FFF0199CC9#64 = .error .reservedBits
    ∧ decodeTelegram 0x000001FFF0199CC9#64 = .error .preamble
    ∧ decodeTelegram 0x000003FFF81D9CC9#64 = .error .startBit
    ∧ decodeTelegram 0x000003FFF0199CC8#64 = .error .stopBit
    ∧ decodeTelegram 0x000003FFF7F001FF#64 = .error .telegramKind := ⟨rfl, rfl, rfl, rfl, rfl⟩
theorem test_decodeBytes_short : decodeBytes [0xE7#8] = .error .shortWord := rfl
-- the low byte is the earlier one (R54)
theorem test_decodeBytes :
    decodeBytes [0xE7#8, 0x20#8, 0x80#8] = .ok (.cmdLoco 0 3 1 0 7, [0x80#8]) := rfl

/-! ### Instructions -/

-- V-H1 step 1
theorem test_cmdLoco :
    (nextOf (exec (.cmdLoco 0 3 1 0 7) stA)).slots[0]? = some { addr := 3, speed := 7, dir := 1, light := 0 }
    ∧ (nextOf (exec (.cmdLoco 0 3 1 0 7) stA)).ackch = [0xE7#8, 0xA0#8] := by decide
-- V-H1 step 3
theorem test_cmdLoco_unknown :
    (nextOf (exec (.cmdLoco 0 4 0 0 0) stA)).errOut = some { kind := .unknownLocomotiveAddress, word := 0x2100 }
    ∧ (nextOf (exec (.cmdLoco 0 4 0 0 0) stA)).ackch = [] := by decide
-- V-H1 step 10: a full queue still updates; bit 15 set
theorem test_cmdAcc_update :
    (nextOf (exec (.cmdAcc 1 5 1 2 1) stQ)).queue
      = [{ addr := 5, dev := 2, ctl := 1, en := 1 }, { addr := 6, dev := 0, ctl := 0, en := 1 }]
    ∧ (nextOf (exec (.cmdAcc 1 5 1 2 1) stQ)).ackch = [0x5D#8, 0xC0#8] := by decide
-- V-H1 step 9
theorem test_cmdAcc_full :
    (nextOf (exec (.cmdAcc 0 7 0 0 1) stQ)).errOut = some { kind := .accessoryQueueFull, word := 0x4071 }
    ∧ (nextOf (exec (.cmdAcc 0 7 0 0 1) stQ)).queue = fullQueue := by decide
-- V-H1 steps 4 and 5
theorem test_cmdBad00 :
    (nextOf (exec (.cmdBad00 0 0) stA)).errOut = some { kind := .unknownMessageType, word := 0x0000 } := by decide
theorem test_cmdBad11 :
    (nextOf (exec (.cmdBad11 1 0x123) stA)).errOut = some { kind := .unknownMessageType, word := 0xE123 } := by decide
-- V-D1 and V-Q1: the acknowledgement 0xA0E7, low byte first
theorem test_ackLoco : (nextOf (exec (.ackLoco 3 1 0 7) stA)).ackch = [0xE7#8, 0xA0#8] := by decide
theorem test_ackAcc : (nextOf (exec (.ackAcc 5 1 2 1) stA)).ackch = [0x5D#8, 0xC0#8] := by decide
-- R171, R126
theorem test_tgLoco :
    (nextOf (exec (.tgLoco 3 1 0 7 0x64) stW)).tx
      = { owner := .loco 0, state := .settle, frame := 0x000003FFF0199CC9, len := 42, idx := 41, cnt := 3 } := by decide
theorem test_tgAcc :
    (nextOf (exec (.tgAcc 5 1 2 1 0x78) stD)).tx
      = { owner := .drain, state := .settle, frame := 0x000003FFF42BF4F1, len := 42, idx := 41, cnt := 3 } := by decide
-- R169: the Reset telegrams come before the Idle ones
theorem test_tgReset :
    (nextOf (exec .tgReset stB)).tx.frame = 0x000003FFF0000001 ∧ (nextOf (exec .tgIdle stB)).tx = stB.tx := by decide
theorem test_tgIdle :
    (nextOf (exec .tgIdle (stB.setSu { resetLeft := 0, idleLeft := 1, done := false }))).tx.frame = 0x000003FFF7F801FF := by
  decide

/-! ### Units and steps -/

-- P3 step 5: the update stands, the acknowledgement is lost
theorem test_ack_lost :
    (nextOf (exec (.cmdLoco 0 3 0 1 4) stF)).slots[0]? = some { addr := 3, speed := 4, dir := 0, light := 1 }
    ∧ (nextOf (exec (.cmdLoco 0 3 0 1 4) stF)).errOut = some { kind := .channelTransportError, word := 0x20D4 }
    ∧ (nextOf (exec (.cmdLoco 0 3 0 1 4) stF)).ackch = stF.ackch := by decide
-- R163's example, in the step of the grant
theorem test_step_tick :
    ((nextOf (step (stA.setSlots [{ addr := 3, speed := 7, dir := 1, light := 0 }]))).snd[0]?.map Sender.frame)
      = some 0x000003FFF0199CC9 := by decide
-- V-Z3
theorem test_step_halts : (nextOf (step (stA.setEnv { stA.env with prog := [.stop] }))).halted = true := by decide
-- R177, D33: a stop during the last startup telegram leaves `su.done` 0, and V-Z1: the telegram is counted off, then halt
theorem test_stop_in_last_startup_telegram :
    (nextOf (step (hostStop stL))).su = { resetLeft := 0, idleLeft := 0, done := false }
    ∧ (nextOf (step (hostStop stL))).halted = true
    ∧ (nextOf (step (hostStop stL))).snd.map Sender.tick = [0, 0] := by decide
-- R169, R167: without a stop it ends startup and loads the phases
theorem test_last_startup_telegram :
    (nextOf (step stL)).su = { resetLeft := 0, idleLeft := 0, done := true }
    ∧ (nextOf (step stL)).snd.map Sender.tick = [0, 4] := by decide
-- R8
theorem test_step_refuses : step (State.resetOf { cfgA with accQDepth := 0 }) = .refused .illegalConfig := rfl
-- R129
theorem test_txStart_refuses : txStart 0 0 stA = .refused .txLength ∧ txStart 0 65 stA = .refused .txLength := ⟨rfl, rfl⟩

-- The instruction placed by `withFetchWord` is the one the next step runs, from reset: one row of each channel.
theorem test_fetch_cmdLoco :
    decodeTableWord 16 0x20E7 = some (.cmdLoco 0 3 1 0 7)
    ∧ ((nextOf (step (State.reset.withFetchWord 16 0x20E7))).slots[0]?.map Slot.speed) = some 7 := by decide
theorem test_fetch_tgAcc :
    decodeTableWord 64 0x000003FFF42BF4F1 = some (.tgAcc 5 1 2 1 0x78)
    ∧ (nextOf (step (State.reset.withFetchWord 64 0x000003FFF42BF4F1))).tx.frame = 0x000003FFF42BF4F1 := by decide

/-! ### Witnesses: for each statement with hypotheses, a state and operands that meet them, clause by clause -/

theorem witness_EncodeUndoesDecode :
    decode .cmd16 (.w16 0xE123#16) = .ok (.cmdBad11 1 0x123) ∧ decode .ack16 (.w16 0xA0E7#16) = .ok (.ackLoco 3 1 0 7)
    ∧ decode .tg64 (.t64 0x000003FFF42BF4F1#64) = .ok (.tgAcc 5 1 2 1 0x78) := ⟨rfl, rfl, rfl⟩

theorem witness_CommandWordToTelegramLosesNoField : typeField 0x3FFF#16 = 1#2 ∧ typeField 0x5FFF#16 = 2#2 := by decide

theorem earlier_slot_differs (j : Nat) (q : Slot) (hj : j < 1) (hq : stF.slots[j]? = some q) : q.addr ≠ 10#7 := by
  obtain rfl : j = 0 := by omega
  obtain rfl : Slot.mk 3 0 0 0 = q := Option.some.inj hq
  decide

theorem earlier_entry_differs (k : Nat) (f : AccEntry) (hk : k < 1) (hf : fullQueue[k]? = some f) :
    ¬(f.addr = 6#9 ∧ f.dev = 0#2) := by
  obtain rfl : k = 0 := by omega
  obtain rfl : AccEntry.mk 5 2 0 0 = f := Option.some.inj hf
  decide

theorem witness_LocoCommandWritesSlotAndAcknowledges :
    stA.slots[1]? = some (Slot.mk 10 0 0 0) ∧ (Slot.mk 10 0 0 0).addr = 10#7
    ∧ (∀ (j : Nat) (q : Slot), j < 1 → stA.slots[j]? = some q → q.addr ≠ 10#7)
    ∧ stA.ackch.length + 2 ≤ stA.cfg.chanCapBytes := ⟨rfl, rfl, earlier_slot_differs, by decide⟩

theorem witness_LocoCommandUnknownAddress : ∀ r ∈ stA.slots, r.addr ≠ 4#7 := by decide

theorem witness_AccCommandUpdatesInPlace :
    stQ.queue[1]? = some (AccEntry.mk 6 0 0 1)
    ∧ (∀ (k : Nat) (f : AccEntry), k < 1 → stQ.queue[k]? = some f → ¬(f.addr = 6#9 ∧ f.dev = 0#2))
    ∧ stQ.ackch.length + 2 ≤ stQ.cfg.chanCapBytes := ⟨rfl, earlier_entry_differs, by decide⟩

/-- One place free in the queue, and one word in the acknowledgement channel. -/
theorem witness_AccCommandAppends :
    let s := (stA.setQueue [AccEntry.mk 5 2 0 0]).setAckch [0xE7#8, 0xA0#8]
    (∀ f ∈ s.queue, ¬(f.addr = 6#9 ∧ f.dev = 0#2)) ∧ s.queue.length < s.cfg.accQDepth
    ∧ s.ackch.length + 2 ≤ s.cfg.chanCapBytes := by decide

theorem witness_AccCommandQueueFull :
    (∀ f ∈ stQ.queue, ¬(f.addr = 7#9 ∧ f.dev = 0#2)) ∧ stQ.cfg.accQDepth ≤ stQ.queue.length := by decide

/-- The slot write and the update in `stF`, the append with one entry less. -/
theorem witness_LostAcknowledgementKeepsTheUpdate :
    stF.cfg.chanCapBytes < stF.ackch.length + 2
    ∧ stF.slots[1]? = some (Slot.mk 10 0 0 0)
    ∧ (∀ (j : Nat) (q : Slot), j < 1 → stF.slots[j]? = some q → q.addr ≠ 10#7)
    ∧ stF.queue[1]? = some (AccEntry.mk 6 0 0 1)
    ∧ (∀ (k : Nat) (f : AccEntry), k < 1 → stF.queue[k]? = some f → ¬(f.addr = 6#9 ∧ f.dev = 0#2))
    ∧ (let s := stF.setQueue [AccEntry.mk 5 2 0 0]
       s.cfg.chanCapBytes < s.ackch.length + 2 ∧ (∀ f ∈ s.queue, ¬(f.addr = 6#9 ∧ f.dev = 0#2))
       ∧ s.queue.length < s.cfg.accQDepth) :=
  ⟨by decide, rfl, earlier_slot_differs, rfl, earlier_entry_differs, by decide⟩

theorem witness_AcknowledgementIsPushedOrLost :
    0xA0E7#16 = 0b101#3 ++ 3#7 ++ 1#1 ++ 0#1 ++ 7#4 ∧ 0xC05D#16 = 0b110#3 ++ 5#9 ++ 1#1 ++ 2#2 ++ 1#1
    ∧ (stA.setAckch [0#8, 0#8]).ackch.length + 2 ≤ stA.cfg.chanCapBytes
    ∧ stF.cfg.chanCapBytes < stF.ackch.length + 2
    ∧ typeField 0x20E7#16 = 1#2 ∧ typeField 0x405D#16 = 2#2 := by decide

theorem witness_StartupTelegramsAreGranted :
    stB.tx.state = .idle ∧ stB.stopReq = false ∧ stB.su.done = false ∧ stB.su.resetLeft ≠ 0#8
    ∧ (let s := stB.setSu { resetLeft := 0, idleLeft := 1, done := false }
       s.tx.state = .idle ∧ s.stopReq = false ∧ s.su.done = false ∧ s.su.resetLeft = 0#8 ∧ s.su.idleLeft ≠ 0#8) := by
  decide

theorem witness_LocomotiveTelegramIsGranted :
    stW.tx.state = .idle ∧ stW.stopReq = false ∧ stW.su.done = true ∧ roundRobinPick stW = some 0
    ∧ 0 < stW.cfg.numLoco ∧ stW.snd[0]? = some { state := .wait, frame := 0x000003FFF0199CC9, tick := 8 }
    ∧ 0x000003FFF0199CC9#64 = telegramOf (0#1 ++ 3#7) (1#2 ++ 1#1 ++ 0#1 ++ 7#4) 0x64 := by decide

theorem witness_AccessoryTelegramIsGranted :
    stD.tx.state = .idle ∧ stD.stopReq = false ∧ stD.su.done = true ∧ roundRobinPick stD = some stD.cfg.numLoco
    ∧ stD.drn.frame = telegramOf (2#2 ++ (5#9).extractLsb' 0 6)
        (1#1 ++ ~~~((5#9).extractLsb' 6 3) ++ 1#1 ++ 2#2 ++ 1#1) 0x78 := by decide

/-- An Idle telegram while startup still offers a Reset, and a Reset telegram on a busy line. -/
theorem witness_UngrantedTelegramChangesNothing :
    encode .tgIdle = .t64 0x000003FFF7F801FF ∧ (∀ o, offered stB ≠ some (o, 0x000003FFF7F801FF))
    ∧ (∀ o t, offered stT ≠ some (o, t)) := by
  refine ⟨rfl, fun o h => ?_, fun o t h => ?_⟩
  · have e : offered stB = some (.su, 0x000003FFF0000001) := by decide
    rw [e] at h
    have h2 : (0x000003FFF0000001#64) = 0x000003FFF7F801FF := congrArg Prod.snd (Option.some.inj h)
    exact absurd h2 (by decide)
  · have e : offered stT = none := by decide
    rw [e] at h
    cases h

theorem witness_ArbiterGrantsTheOfferedTelegram :
    offered stW = some (.loco 0, 0x000003FFF0199CC9)
    ∧ okInstr (decodeTelegram 0x000003FFF0199CC9) = some (.tgLoco 3 1 0 7 0x64)
    ∧ offered stA = none ∧ stT.tx.state ≠ .idle ∧ (hostStop stA).stopReq = true
    ∧ (let u := stB.setSu { resetLeft := 0, idleLeft := 0, done := false }
       u.su.done = false ∧ u.su.resetLeft = 0#8 ∧ u.su.idleLeft = 0#8)
    ∧ stA.su.done = true ∧ ∀ p, p ≤ stA.cfg.numLoco → waiting stA p = false := by
  refine ⟨by decide, by decide, by decide, by decide, by decide, by decide, by decide, fun p hp => ?_⟩
  have hp' : p ≤ 2 := hp
  interval_cases p <;> decide

theorem witness_ChannelMovesWholeWords :
    2 ≤ 4 - [0#8, 0#8].length ∧ 4 - [0#8, 0#8, 0#8].length < 2 ∧ [0#8].length < 2 := by decide

theorem witness_ChannelIsFirstInFirstOut :
    chanPushWord 4 [] 0x20E7 = some [0xE7, 0x20]
    ∧ chanPushWord 4 [0xE7, 0x20] 0x4061 = some [0xE7, 0x20, 0x61, 0x40]
    ∧ chanPopWord [0xE7, 0x20] = some (0x20E7, []) := by decide

theorem witness_SlotWriteChangesOneSlot : slotRead 1 stA = some { addr := 10, speed := 0, dir := 0, light := 0 } := by decide

theorem witness_QueueIsFirstInFirstOut :
    let a := AccEntry.mk 1 0 0 1
    let b := AccEntry.mk 1 1 0 1
    let c := AccEntry.mk 3 0 0 1
    3 ≤ 3 ∧ entryKey a ≠ entryKey b ∧ entryKey a ≠ entryKey c ∧ entryKey b ≠ entryKey c
    ∧ (qEnqueueOrUpdate 1 (AccEntry.mk 1 0 1 0) [a]).1 = .updated
    ∧ (qEnqueueOrUpdate 2 b [a]).1 = .appended ∧ (qEnqueueOrUpdate 1 b [a]).1 = .full := by decide

/-- The shortest and the longest transmission; a time in each phase of the last bit. -/
theorem witness_WaveformIsExact :
    cfgA.legal = true ∧ 1 ≤ 1 ∧ 64 ≤ 64 ∧ 2 < cfgA.settle
    ∧ (let c := cfgA
       let t := 0x000003FFF0000001#64
       0 < 1 ∧ bitStart c t 1 0 = 3 ∧ 3 < 3 + c.half (lineBit t 1 0) ∧ 3 + c.half (lineBit t 1 0) ≤ 4
       ∧ 4 < 3 + 2 * c.half (lineBit t 1 0)) := by decide

theorem witness_TelegramDuration :
    Config.reference.h1 = 58 ∧ Config.reference.h0 = 100 ∧ Config.reference.settle = 500 := by decide

/-- 0 and 65 are refused, 1 and 64 are not: the clauses meet nowhere. -/
theorem witness_TransmitLengthIsBounded :
    (0 = 0 ∨ 64 < 0) ∧ (65 = 0 ∨ 64 < 65) ∧ (1 ≤ 1 ∧ 1 ≤ 64) ∧ (1 ≤ 64 ∧ 64 ≤ 64) ∧ ¬(1 = 0 ∨ 64 < 1) ∧ ¬(64 = 0 ∨ 64 < 64) := by
  decide

theorem witness_TransmissionIsNeverCutShort :
    NoReset stT ∧ stT.halted = false ∧ stT.tx.state ≠ .idle ∧ stT.tx.state ≠ .ending ∧ step stT = .next (nextOf (step stT)) :=
  ⟨rfl, by decide, by decide, by decide, eq_next_of_isNext (by decide)⟩

theorem witness_OutputsFollowTheState :
    (stA.setHalted true).halted = true ∧ stT.halted = false ∧ stA.errOut = none
    ∧ (raise .channelTransportError 0x20D4 stA).errOut = some { kind := .channelTransportError, word := 0x20D4 } := by decide

theorem witness_TicksFireEveryPeriod : 1 ≤ (1 : Nat) := by decide

theorem witness_SenderTickTakesTheSlotBeforeTheHandler :
    NoReset stA ∧ stA.halted = false ∧ stA.su.done = true ∧ (atEdge stA).stopReq = false
    ∧ stA.cfg.locos[0]? = some { addr := 3, speed := 0, dir := 0, light := 0, period := 9, phase := 0 }
    ∧ stA.slots[0]? = some (Slot.mk 3 0 0 0) ∧ stA.snd[0]? = some { state := .sleep, frame := 0, tick := 0 }
    ∧ stA.tx.owner ≠ .su ∧ step stA = .next (nextOf (step stA)) :=
  ⟨rfl, by decide, by decide, by decide, by decide, by decide, by decide, by decide, eq_next_of_isNext (by decide)⟩

theorem witness_BusyUnitLosesItsTick :
    (Sender.mk .wait 0 0).state ≠ .sleep ∧ (Sender.mk .tx 0 0).state ≠ .sleep
    ∧ (let s := stA.setDrn { state := .tx, frame := 0, tick := 0 }
       s.drn.state ≠ .sleep ∧ s.drn.tick = 0) := by decide

theorem witness_DrainTickSendsTheOldestEntry :
    stQ.drn.state = .sleep ∧ stQ.drn.tick = 0 ∧ stQ.queue = AccEntry.mk 5 2 0 0 :: [AccEntry.mk 6 0 0 1]
    ∧ stA.drn.state = .sleep ∧ stA.drn.tick = 0 ∧ stA.queue = [] := by decide

theorem stW_LineOk : LineOk stW := by
  refine ⟨by decide, fun i => ?_, by decide, by decide⟩
  rcases i with _ | _ | i <;> simp [SenderIn, stW, stA, State.resetOf, State.setSnd, State.setDrn]

theorem witness_WaitingSenderKeepsItsFrame :
    LineOk stW ∧ NoReset stW ∧ step stW = .next (nextOf (step stW))
    ∧ stW.snd[0]? = some { state := .wait, frame := 0x000003FFF0199CC9, tick := 8 } ∧ stW.drn.state = .wait :=
  ⟨stW_LineOk, rfl, eq_next_of_isNext (by decide), by decide, by decide⟩

/-- The last telegram of the sequence, and one before it. -/
theorem witness_StartupEndLoadsThePhases :
    stB.snd.length = stB.cfg.numLoco ∧ 1 < stB.su.resetLeft.toNat + stB.su.idleLeft.toNat
    ∧ (let s := stB.setSu { resetLeft := 0, idleLeft := 1, done := false }
       s.snd.length = s.cfg.numLoco ∧ s.su.resetLeft.toNat + s.su.idleLeft.toNat = 1 ∧ s.stopReq = false
       ∧ (hostStop s).snd.length = (hostStop s).cfg.numLoco
       ∧ (hostStop s).su.resetLeft.toNat + (hostStop s).su.idleLeft.toNat = 1 ∧ (hostStop s).stopReq = true) := by decide

theorem stE_LineOk : LineOk stE := by
  refine ⟨by decide, fun i => ?_, by decide, by decide⟩
  rcases i with _ | _ | i <;> simp [SenderIn, stE, stW, stA, State.resetOf, State.setSnd, State.setDrn, State.setTx]

theorem stE_FramesOk : FramesOk stE := by
  refine ⟨fun i d r hd hr hw => ?_, fun _ => ⟨5, 2, 1, 1, by decide⟩, fun _ => ⟨0x0A, 0x40, by decide⟩⟩
  rcases i with _ | _ | i
  · obtain rfl : Sender.mk .wait 0x000003FFF0199CC9 8 = d := Option.some.inj hd
    obtain rfl : Slot.mk 3 0 0 0 = r := Option.some.inj hr
    exact ⟨7, 1, 0, by decide⟩
  · obtain rfl : Sender.mk .tx 0 3 = d := Option.some.inj hd
    cases hw
  · cases hd

theorem stE_TicksOk : TicksOk stE := by
  refine ⟨fun i l d hl hd => ?_, by decide⟩
  rcases i with _ | _ | i
  · obtain rfl : LocoCfg.mk 3 0 0 0 9 0 = l := Option.some.inj hl
    obtain rfl : Sender.mk .wait 0x000003FFF0199CC9 8 = d := Option.some.inj hd
    decide
  · obtain rfl : LocoCfg.mk 10 0 0 0 9 4 = l := Option.some.inj hl
    obtain rfl : Sender.mk .tx 0 3 = d := Option.some.inj hd
    decide
  · cases hd

theorem stE_Inv : Inv stE :=
  ⟨⟨by decide, by decide, by decide⟩, ⟨by decide, by decide⟩, ⟨by decide, by decide⟩, stE_LineOk,
    ⟨by decide, by decide, by decide, by decide⟩, ⟨by decide, by decide, by decide⟩, by unfold HaltOk; decide, stE_TicksOk,
    stE_FramesOk⟩

theorem stB_sender {i : Nat} {d : Sender} (h : stB.snd[i]? = some d) : d = { state := .sleep, frame := 0, tick := 0 } := by
  rcases i with _ | _ | i
  · exact (Option.some.inj h).symm
  · exact (Option.some.inj h).symm
  · cases h

theorem stB_Inv : Inv stB := by
  refine ⟨⟨by decide, by decide, by decide⟩, ⟨by decide, by decide⟩, ⟨by decide, by decide⟩,
    ⟨by decide, fun i => ?_, by decide, by decide⟩, ⟨by decide, by decide, by decide, by decide⟩,
    ⟨by decide, by decide, by decide⟩, by unfold HaltOk; decide, ⟨fun i l d _ hd => ?_, by decide⟩, ⟨fun i d r hd _ hw => ?_, by decide, fun h => ?_⟩⟩
  · rcases i with _ | _ | i <;> simp [SenderIn, stB, State.resetOf, cfgB, cfgA, Sender.reset]
  · rw [stB_sender hd]; exact Nat.zero_le _
  · rw [stB_sender hd] at hw; cases hw
  · exact absurd rfl h

/-- The step grants the line to sender 0 in `stE` and to the startup sequencer in `stB`. -/
theorem witness_LineHasOneOwner :
    Inv stE ∧ step stE = .next (nextOf (step stE)) ∧ SenderIn (nextOf (step stE)) 0 .tx
    ∧ Inv stB ∧ step stB = .next (nextOf (step stB)) ∧ (nextOf (step stB)).tx.owner = .su :=
  ⟨stE_Inv, eq_next_of_isNext (by decide), by unfold SenderIn; decide, stB_Inv, eq_next_of_isNext (by decide), by decide⟩

theorem witness_TelegramsGoOutBackToBack :
    Inv stE ∧ NoReset stE ∧ (atEdge stE).stopReq = false ∧ stE.tx.state = .ending ∧ stE.su.done = true
    ∧ 2 ≤ stE.cfg.numLoco ∧ waiting stE 2 = true ∧ step stE = .next (nextOf (step stE)) :=
  ⟨stE_Inv, rfl, by decide, by decide, by decide, by decide, by decide, eq_next_of_isNext (by decide)⟩

theorem witness_StoppedBlockOnlyFinishesItsTelegram :
    (stA.setHalted true).halted = true ∧ (hostStop stT).halted = false ∧ (hostStop stT).stopReq = true
    ∧ (let s := stA.setHalted true
       s.cfg.legal = true ∧ NoReset s ∧ (atEdge s).halted = true)
    ∧ (let s := stT.setEnv { stT.env with prog := [.stop] }
       s.cfg.legal = true ∧ NoReset s ∧ (atEdge s).halted = false ∧ (atEdge s).stopReq = true)
    ∧ (let s := stL.setEnv { stL.env with prog := [.stop] }
       s.cfg.legal = true ∧ NoReset s ∧ (atEdge s).halted = false ∧ (atEdge s).stopReq = true) :=
  ⟨by decide, by decide, by decide, ⟨by decide, rfl, by decide⟩, ⟨by decide, rfl, by decide, by decide⟩,
    ⟨by decide, rfl, by decide, by decide⟩⟩

theorem witness_OnlyResetLeavesTheStop :
    let s := (hostStop stA).setHalted true
    NoReset s ∧ step s = .next (nextOf (step s)) ∧ s.stopReq = true ∧ s.halted = true :=
  ⟨rfl, eq_next_of_isNext (by decide), by decide, by decide⟩

/-- Each clause at the edge of its range. -/
theorem witness_HostActions :
    (stA.setHalted true).halted = true ∧ stA.halted = false
    ∧ (stA.setCmdch [0#8, 0#8]).cmdch.length + 2 ≤ stA.cfg.chanCapBytes
    ∧ stA.cfg.chanCapBytes < (stA.setCmdch [0#8, 0#8, 0#8]).cmdch.length + 2
    ∧ stF.ackch = wordBytes 0xA0D2 ++ [0xD3#8, 0xA0#8] ∧ (stA.setAckch [0#8]).ackch.length < 2 := by decide

/-- No attempt and one, the default and the largest number; a read that matches, the last attempt of one that does not, and one
before it. -/
theorem witness_DeliveryCountsItsAttempts :
    ((some 0#16).getD stA.cfg.defaultAttempts).toNat = 0 ∧ ((some 1#16).getD stA.cfg.defaultAttempts).toNat = 0 + 1
    ∧ ((none : Option (BitVec 16)).getD stA.cfg.defaultAttempts).toNat = 2 + 1
    ∧ ((some 0xFFFF#16).getD stA.cfg.defaultAttempts).toNat = 65534 + 1 ∧
    acknowledges (hostRead stF).1 0x20D2 = true ∧ acknowledges (hostRead stF).1 0x20D3 = false
    ∧ acknowledges (hostRead stA).1 0x20D3 = false
    ∧ (Client.mk 0x20D3 0 0 []).left = 0 ∧ (Client.mk 0x20D3 1 0 []).left = 0 + 1 := by decide

theorem witness_DeliverySucceedsAtTheFirstAttempt :
    let s := stA.setEnv { stA.env with prog := [.send 0x20E7 (some 1) (0 :: [])] }
    s.cfg.legal = true ∧ s.halted = false ∧ s.stopReq = false ∧ s.cmdch = [] ∧ s.ackch = [] ∧ s.env.rstIn = []
    ∧ s.env.client = none ∧ s.env.prog = [.send 0x20E7 (some 1) (0 :: [])] ∧ (1#16) ≠ 0 ∧ typeField 0x20E7 = 1#2
    ∧ ∃ r ∈ s.slots, r.addr = locoAddr 0x20E7 := by decide

theorem witness_StepRunsTheDecodedCommand :
    let s := stA.setCmdch [0xE7#8, 0x20#8]
    s.cfg.legal = true ∧ NoReset s ∧ (atEdge s).halted = false ∧ (atEdge s).stopReq = false
    ∧ decodeBytes (atEdge s).cmdch = .ok (.cmdLoco 0 3 1 0 7, [])
    ∧ (let u := stA.setCmdch [0xE7#8]
       u.cfg.legal = true ∧ NoReset u ∧ (atEdge u).halted = false ∧ (atEdge u).stopReq = false ∧ (atEdge u).cmdch.length < 2) :=
  ⟨by decide, rfl, by decide, by decide, rfl, by decide, rfl, by decide, by decide, by decide⟩

/-- A word the host writes before the clock edge is there at the edge. -/
theorem witness_HandlerTakesOneWordAStep :
    let s := stA.setEnv { stA.env with prog := [.write 0x20E7, .write 0x2280] }
    NoReset s ∧ (atEdge s).halted = false ∧ (atEdge s).stopReq = false ∧ (atEdge s).cmdch.length = 4
    ∧ step s = .next (nextOf (step s)) :=
  ⟨rfl, by decide, by decide, by decide, eq_next_of_isNext (by decide)⟩

theorem witness_LegalConfigurationNeverStops :
    stA.cfg.legal = true ∧ (State.resetOf { cfgA with locos := cfgA.locos ++ cfgA.locos }).cfg.legal = false := by decide

theorem witness_ConfigurationIsNeverWritten : step stA = .next (nextOf (step stA)) := eq_next_of_isNext (by decide)

theorem witness_SlotAddressesAreFixed : NoReset stA ∧ step stA = .next (nextOf (step stA)) :=
  ⟨rfl, eq_next_of_isNext (by decide)⟩

theorem witness_OnlyItsCommandChangesASlot :
    let s := stA.setCmdch [0xE7#8, 0x20#8]
    NoReset s ∧ step s = .next (nextOf (step s)) ∧ s.slots[0]? = some (Slot.mk 3 0 0 0)
    ∧ (nextOf (step s)).slots[0]? ≠ some (Slot.mk 3 0 0 0) :=
  ⟨rfl, eq_next_of_isNext (by decide), by decide, by decide⟩

theorem witness_ErrorOutputIsOfThisStep :
    let s := stA.setCmdch [0x00#8, 0x21#8]
    step s = .next (nextOf (step s))
    ∧ (nextOf (step s)).errOut = some { kind := .unknownLocomotiveAddress, word := 0x2100 } :=
  ⟨eq_next_of_isNext (by decide), by decide⟩

theorem witness_ResetStepRestoresEveryElement :
    let s := stT.setEnv { stT.env with rstIn := [true, false] }
    s.cfg.legal = true ∧ s.env.rstIn = true :: [false] := by decide

theorem witness_ResetValues :
    Config.reference.legal = true ∧ cfgA.legal = true ∧ cfgA.startupResetCount = 0 ∧ cfgA.startupIdleCount = 0 := by decide

/-- Two states that differ in the idle transmitter's frame and in a frame no requester waits with. -/
theorem witness_ElementsWithoutValueAreNeverRead :
    let t := (stA.setTx { stA.tx with frame := 1, len := 1, idx := 1, cnt := 1 }).setDrn { stA.drn with frame := 7 }
    ConfigOk stA ∧ Agree stA t ∧ stA ≠ t :=
  ⟨⟨by decide, by decide, by decide⟩,
    ⟨rfl, rfl, rfl, rfl, rfl,
      .cons ⟨rfl, fun _ => rfl, fun _ => rfl⟩ (.cons ⟨rfl, fun _ => rfl, fun _ => rfl⟩ .nil),
      ⟨rfl, fun h => absurd h (by decide), fun _ => rfl⟩, rfl, rfl, ⟨rfl, rfl, fun h => absurd rfl h⟩, rfl, rfl, rfl, rfl⟩,
    by decide⟩

theorem witness_InvariantsHoldAtReset : cfgA.legal = true ∧ cfgB.legal = true := by decide

theorem witness_EveryStepKeepsTheInvariants : Inv stE ∧ step stE = .next (nextOf (step stE)) :=
  ⟨stE_Inv, eq_next_of_isNext (by decide)⟩

end Sys2Proof.Tests
end

section
/-! PROOFS. What the step's parts leave of the block, beside the frames of `Laws/`, and what a legal configuration gives. -/

namespace Sys2Proof.Machine

open Sys2Proof.Safety

/-! ### Legal configurations -/

theorem legal_settle_pos {c : Config} (h : c.legal = true) : 1 ≤ c.settle := by
  simp only [Config.legal, Bool.and_eq_true, decide_eq_true_eq] at h
  exact Nat.mul_pos (by omega) (by omega)

theorem legal_half_pos {c : Config} (h : c.legal = true) (b : Bool) : 1 ≤ c.half b := by
  simp only [Config.legal, Bool.and_eq_true, decide_eq_true_eq] at h
  cases b
  · exact Nat.mul_pos (by omega) (by omega)
  · exact Nat.mul_pos (by omega) (by omega)

theorem legal_startup_le {c : Config} (h : c.legal = true) : c.startupResetCount ≤ 255 ∧ c.startupIdleCount ≤ 255 := by
  simp only [Config.legal, Bool.and_eq_true, decide_eq_true_eq] at h
  omega

theorem startupEmpty_eq_true {c : Config} :
    startupEmpty c = true ↔ c.startupResetCount = 0 ∧ c.startupIdleCount = 0 := by
  simp [startupEmpty]

/-! ### The transmitter (R125) -/

theorem txNext_of_idle (c : Config) {t : Transmitter} (h : t.state = .idle) : txNext c t = t := by
  simp [txNext, h]

theorem txNext_of_ending (c : Config) {t : Transmitter} (h : t.state = .ending) :
    txNext c t = { t with state := .idle, owner := .none } := by
  simp [txNext, h]

/-- A telegram stays on the line, and its owner keeps the line until it has ended (R125, R170). -/
theorem txNext_keeps (c : Config) (t : Transmitter) :
    (txNext c t).frame = t.frame ∧ (t.state ≠ .ending → (txNext c t).owner = t.owner) := by
  unfold txNext
  cases t.state with
  | idle => exact ⟨rfl, fun _ => rfl⟩
  | settle => dsimp only; split <;> exact ⟨rfl, fun _ => rfl⟩
  | hi => dsimp only; split <;> exact ⟨rfl, fun _ => rfl⟩
  | lo =>
    dsimp only
    split
    · exact ⟨rfl, fun _ => rfl⟩
    · split <;> exact ⟨rfl, fun _ => rfl⟩
  | ending => exact ⟨rfl, fun h => absurd rfl h⟩

@[simp] theorem txNext_frame (c : Config) (t : Transmitter) : (txNext c t).frame = t.frame := (txNext_keeps c t).1

theorem txNext_owner {c : Config} {t : Transmitter} (h : t.state ≠ .ending) : (txNext c t).owner = t.owner :=
  (txNext_keeps c t).2 h

theorem txNext_idle_iff {c : Config} {t : Transmitter} :
    (txNext c t).state = .idle ↔ t.state = .idle ∨ t.state = .ending := by
  constructor
  · intro h
    by_contra hn
    rw [not_or] at hn
    exact txNext_ne_idle hn.1 hn.2 h
  · rintro (h | h)
    · rw [txNext_of_idle c h, h]
    · rw [txNext_of_ending c h]

/-! ### A completion (R168) -/

@[simp] theorem loadPhases_snd_length (s : State) : (loadPhases s).snd.length = s.snd.length := by
  simp [loadPhases]; omega

@[simp] theorem complete_snd_length (o : Owner) (s : State) : (complete o s).snd.length = s.snd.length := by
  cases o with
  | none => rfl
  | su => simp only [complete, startupDone_eq]; split <;> simp
  | loco i => simp [complete]
  | drain => rfl

/-- Loading the phases touches a sender's tick counter only (R167). -/
theorem loadPhases_getElem? {s : State} {i : Nat} {e : Sender} (h : (loadPhases s).snd[i]? = some e) :
    ∃ d, s.snd[i]? = some d ∧ e.state = d.state ∧ e.frame = d.frame
      ∧ (e.tick = d.tick ∨ ∃ l, s.cfg.locos[i]? = some l ∧ e.tick = l.phase) := by
  simp only [loadPhases, State.setDrn_snd, State.setSnd_snd, List.getElem?_append, List.length_zipWith,
    List.getElem?_drop, List.getElem?_zipWith] at h
  split at h
  next hi =>
    have hs : i < s.snd.length := by omega
    have hl : i < s.cfg.locos.length := by omega
    simp only [List.getElem?_eq_getElem hs, List.getElem?_eq_getElem hl, Option.some.injEq] at h
    subst h
    exact ⟨_, List.getElem?_eq_getElem hs, rfl, rfl, .inr ⟨_, List.getElem?_eq_getElem hl, rfl⟩⟩
  next hi =>
    obtain ⟨hlt, -⟩ := List.getElem?_eq_some_iff.mp h
    have hi' : s.cfg.locos.length + (i - min s.snd.length s.cfg.locos.length) = i := by omega
    rw [hi'] at h
    exact ⟨e, h, rfl, rfl, .inl rfl⟩

/-- What a completion does to a sender: the owner goes to sleep, and its counter may be loaded with its phase (R167,
R168). -/
theorem complete_getElem? {o : Owner} {s : State} {i : Nat} {e : Sender} (h : (complete o s).snd[i]? = some e) :
    ∃ d, s.snd[i]? = some d ∧ e.state = (if o = .loco i then .sleep else d.state) ∧ e.frame = d.frame
      ∧ (e.tick = d.tick ∨ ∃ l, s.cfg.locos[i]? = some l ∧ e.tick = l.phase) := by
  cases o with
  | none => exact ⟨e, h, by simp, rfl, .inl rfl⟩
  | drain => exact ⟨e, h, by simp, rfl, .inl rfl⟩
  | su =>
    simp only [complete, startupDone_eq] at h
    split at h
    · simpa using loadPhases_getElem? h
    · exact ⟨e, h, by simp, rfl, .inl rfl⟩
  | loco j =>
    simp only [complete, State.setSnd_snd, List.getElem?_modify] at h
    cases hd : s.snd[i]? with
    | none => simp [hd] at h
    | some d =>
      refine ⟨d, rfl, ?_⟩
      by_cases hj : j = i
      · subst hj
        simp [hd] at h
        subst h; simp
      · simp [hd, hj] at h
        subst h; simp [hj]

/-- What a completion does to the drain (R167, R168). -/
theorem complete_drn (o : Owner) (s : State) :
    (complete o s).drn.state = (if o = .drain then .sleep else s.drn.state)
    ∧ (complete o s).drn.frame = s.drn.frame
    ∧ ((complete o s).drn.tick = s.drn.tick ∨ (complete o s).drn.tick = s.cfg.accPhase) := by
  cases o with
  | none => exact ⟨rfl, rfl, .inl rfl⟩
  | loco i => exact ⟨rfl, rfl, .inl rfl⟩
  | drain => exact ⟨rfl, rfl, .inl rfl⟩
  | su =>
    simp only [complete, startupDone_eq]
    split
    · exact ⟨rfl, rfl, .inr rfl⟩
    · exact ⟨rfl, rfl, .inl rfl⟩

/-- The startup counters after the sequencer's completion (R169, R177). -/
theorem startupDone_su (s : State) : (startupDone s).su =
    if (startupCount s.su).resetLeft = 0#8 ∧ (startupCount s.su).idleLeft = 0#8 ∧ s.stopReq = false
    then { startupCount s.su with done := true } else startupCount s.su := by
  rw [startupDone_eq]
  split <;> rfl

/-- Only the sequencer's completion touches the startup counters (R168, R169). -/
theorem complete_su_of_ne {o : Owner} (s : State) (h : o ≠ .su) : (complete o s).su = s.su := by
  cases o with
  | none => rfl
  | loco i => rfl
  | drain => rfl
  | su => exact absurd rfl h

end Sys2Proof.Machine
end

section
/-! PROOFS. Every sub-step keeps the invariants (`10_state.md` R24 to R33, `20_memory.md` R55). -/

namespace Sys2Proof.Machine

open Sys2Proof.Safety

/-! ### The invariants of the units, apart from the store, the channels and the halt -/

/-- The invariants that speak of the units alone. -/
def UnitsOk (s : State) : Prop :=
  ConfigOk s ∧ LineOk s ∧ StartupOk s ∧ TransmitterOk s ∧ TicksOk s ∧ FramesOk s

theorem inv_iff {s : State} : Inv s ↔ UnitsOk s ∧ ChannelsOk s ∧ QueueOk s ∧ HaltOk s := by
  unfold Safety.Inv UnitsOk; tauto

/-- Everything `UnitsOk` reads is as before; a stop request may have been added. -/
structure UnitsFrame (s t : State) : Prop where
  cfg     : t.cfg = s.cfg
  addrs   : t.slots.map Slot.addr = s.slots.map Slot.addr
  snd     : t.snd = s.snd
  drn     : t.drn = s.drn
  su      : t.su = s.su
  arbLast : t.arbLast = s.arbLast
  tx      : t.tx = s.tx
  stopReq : s.stopReq = true → t.stopReq = true

theorem HandlerFrame.unitsFrame {s t : State} (h : HandlerFrame s t)
    (ha : t.slots.map Slot.addr = s.slots.map Slot.addr) : UnitsFrame s t :=
  ⟨h.cfg, ha, h.snd, h.drn, h.su, h.arbLast, h.tx, fun hs => h.stopReq.trans hs⟩

theorem HostFrame.unitsFrame {s t : State} (h : HostFrame s t) : UnitsFrame s t :=
  ⟨h.cfg, by rw [h.slots], h.snd, h.drn, h.su, h.arbLast, h.tx, h.stopReq⟩

theorem haltCheck_unitsFrame (s : State) : UnitsFrame s (haltCheck s) := by
  constructor <;> simp

/-- A waiting sender's frame is judged by its slot's address, which is all `FramesOk` reads of the slots. -/
theorem framesOk_of_addrs {s t : State} (ha : t.slots.map Slot.addr = s.slots.map Slot.addr) (hsnd : t.snd = s.snd)
    (hdrn : t.drn = s.drn) (htx : t.tx = s.tx) (h : FramesOk s) : FramesOk t := by
  obtain ⟨hsf, hdf, htf⟩ := h
  refine ⟨fun i d r hd hr hw => ?_, by rwa [hdrn], by rwa [htx]⟩
  have hri : (s.slots.map Slot.addr)[i]? = some r.addr := by rw [← ha, List.getElem?_map, hr]; rfl
  obtain ⟨r', hr', hrr⟩ := Option.map_eq_some_iff.mp ((List.getElem?_map ..).symm.trans hri)
  rw [← hrr]
  exact hsf i d r' (hsnd ▸ hd) hr' hw

theorem UnitsFrame.unitsOk {s t : State} (f : UnitsFrame s t) (h : UnitsOk s) : UnitsOk t := by
  obtain ⟨hc, hl, hu, htx, htk, hf⟩ := h
  obtain ⟨hu1, hu2, hu3, hu4⟩ := hu
  refine ⟨?_, ?_, ⟨?_, ?_, ?_, ?_⟩, ?_, ?_, framesOk_of_addrs f.addrs f.snd f.drn f.tx hf⟩
  · rwa [ConfigOk, f.cfg, f.addrs, f.snd]
  · simpa only [LineOk, SenderIn, f.cfg, f.snd, f.drn, f.arbLast, f.tx] using hl
  · rwa [f.su]
  · rw [f.su]; exact fun hz => (hu2 hz).imp id f.stopReq
  · rwa [f.su, f.tx]
  · rwa [f.su, f.snd, f.drn]
  · rwa [TransmitterOk, f.cfg, f.tx]
  · rwa [TicksOk, f.cfg, f.snd, f.drn]

/-- A sender of a configured block has its parameters and its slot (R23, R27). -/
theorem configOk_getElem? {s : State} (h : ConfigOk s) {i : Nat} {d : Sender} (hd : s.snd[i]? = some d) :
    ∃ l r, s.cfg.locos[i]? = some l ∧ s.slots[i]? = some r := by
  obtain ⟨-, ha, hn⟩ := h
  have hs : s.slots.length = s.cfg.locos.length := by simpa using congrArg List.length ha
  obtain ⟨hi, -⟩ := List.getElem?_eq_some_iff.mp hd
  rw [hn, Config.numLoco] at hi
  exact ⟨_, _, List.getElem?_eq_getElem hi, List.getElem?_eq_getElem (hs ▸ hi)⟩

theorem senderIn_iff {s : State} {i : Nat} {u : UnitState} :
    SenderIn s i u ↔ ∃ d, s.snd[i]? = some d ∧ d.state = u := by
  simp [SenderIn]

/-! ### Sub-step A -/

section txAdvance

variable {s : State}

@[simp] theorem txAdvance_snd_length (s : State) : (txAdvance s).snd.length = s.snd.length := by
  unfold txAdvance; dsimp only; split <;> simp

/-- What sub-step A does to a sender (R167, R168). -/
theorem txAdvance_getElem? {i : Nat} {e : Sender} (h : (txAdvance s).snd[i]? = some e) :
    ∃ d, s.snd[i]? = some d ∧ e.frame = d.frame
      ∧ e.state = (if s.tx.state = .ending ∧ s.tx.owner = .loco i then .sleep else d.state)
      ∧ (e.tick = d.tick ∨ ∃ l, s.cfg.locos[i]? = some l ∧ e.tick = l.phase) := by
  by_cases he : s.tx.state = .ending
  · rw [txAdvance_of_ending s he] at h
    obtain ⟨d, hd, hst, hfr, htk⟩ := complete_getElem? h
    exact ⟨d, hd, hfr, by simpa [he] using hst, htk⟩
  · rw [txAdvance_of_not_ending s he] at h
    exact ⟨e, h, rfl, by simp [he], .inl rfl⟩

/-- What sub-step A does to the drain (R167, R168). -/
theorem txAdvance_drn (s : State) :
    (txAdvance s).drn.frame = s.drn.frame
    ∧ (txAdvance s).drn.state = (if s.tx.state = .ending ∧ s.tx.owner = .drain then .sleep else s.drn.state)
    ∧ ((txAdvance s).drn.tick = s.drn.tick ∨ (txAdvance s).drn.tick = s.cfg.accPhase) := by
  by_cases he : s.tx.state = .ending
  · rw [txAdvance_of_ending s he]
    obtain ⟨hst, hfr, htk⟩ := complete_drn s.tx.owner (s.setTx { s.tx with state := .idle, owner := .none })
    exact ⟨hfr, by simpa [he] using hst, htk⟩
  · rw [txAdvance_of_not_ending s he]
    exact ⟨rfl, by simp [he], .inl rfl⟩

/-- Sub-step A leaves the startup counters alone unless a telegram of the sequencer ends (R168, R169). -/
theorem txAdvance_su_of_not (h : ¬(s.tx.state = .ending ∧ s.tx.owner = .su)) : (txAdvance s).su = s.su := by
  by_cases he : s.tx.state = .ending
  · rw [txAdvance_of_ending s he, complete_su_of_ne _ fun ho => h ⟨he, ho⟩]; rfl
  · rw [txAdvance_of_not_ending s he]; rfl

/-- The startup counters when a telegram of the sequencer ends (R169, R177). -/
theorem txAdvance_su_of_ending (he : s.tx.state = .ending) (ho : s.tx.owner = .su) :
    (txAdvance s).su = if (startupCount s.su).resetLeft = 0#8 ∧ (startupCount s.su).idleLeft = 0#8 ∧ s.stopReq = false
      then { startupCount s.su with done := true } else startupCount s.su := by
  rw [txAdvance_of_ending s he, ho, complete, startupDone_su]
  rfl

/-- Startup, once done, stays done (R29). -/
theorem txAdvance_done (h : s.su.done = true) : (txAdvance s).su.done = true := by
  by_cases hs : s.tx.state = .ending ∧ s.tx.owner = .su
  · rw [txAdvance_su_of_ending hs.1 hs.2]
    split <;> simp [h]
  · rw [txAdvance_su_of_not hs, h]

theorem configOk_txAdvance (h : ConfigOk s) : ConfigOk (txAdvance s) := by
  simpa [ConfigOk] using h

theorem lineOk_txAdvance (h : LineOk s) : LineOk (txAdvance s) := by
  obtain ⟨hn, hsnd, hdrn, hlast⟩ := h
  by_cases he : s.tx.state = .ending
  · have hdr := (txAdvance_drn s).2.1
    refine ⟨by simp [txNext_of_ending _ he], fun i => ?_, ?_, by simpa using hlast⟩
    · simp only [txAdvance_tx, txNext_of_ending _ he, reduceCtorEq, iff_false, senderIn_iff]
      rintro ⟨e, hi, hst⟩
      obtain ⟨d, hd, -, hds, -⟩ := txAdvance_getElem? hi
      split at hds
      next => simp [hds] at hst
      next ho => exact ho ⟨he, (hsnd i).mp (senderIn_iff.mpr ⟨d, hd, hds ▸ hst⟩)⟩
    · simp only [txAdvance_tx, txNext_of_ending _ he, reduceCtorEq, iff_false, hdr]
      split
      next => simp
      next ho => exact fun hst => ho ⟨he, hdrn.mp hst⟩
  · rw [txAdvance_of_not_ending s he]
    refine ⟨?_, ?_, ?_, hlast⟩
    · simpa [txNext_owner he, txNext_idle_iff, he] using hn
    · simpa [SenderIn, txNext_owner he] using hsnd
    · simpa [txNext_owner he] using hdrn

theorem startupOk_txAdvance (h : StartupOk s) : StartupOk (txAdvance s) := by
  obtain ⟨h1, h2, h3, h4⟩ := h
  refine ⟨?_, ?_, fun ho => ?_, fun hd => ?_⟩
  · by_cases hs : s.tx.state = .ending ∧ s.tx.owner = .su
    · rw [txAdvance_su_of_ending hs.1 hs.2]
      split
      next hz => exact fun _ => ⟨hz.1, hz.2.1⟩
      next => simp [(h3 hs.2).1]
    · rwa [txAdvance_su_of_not hs]
  · by_cases hs : s.tx.state = .ending ∧ s.tx.owner = .su
    · rw [txAdvance_su_of_ending hs.1 hs.2]
      split
      next => simp
      next hz =>
        rintro ⟨hr, hi⟩
        exact .inr (by simpa [hr, hi] using hz)
    · rwa [txAdvance_su_of_not hs, txAdvance_stopReq]
  · have he : s.tx.state ≠ .ending := fun he => by simp [txNext_of_ending _ he] at ho
    rw [txAdvance_su_of_not fun hs => he hs.1]
    rw [txAdvance_tx, txNext_owner he] at ho
    exact h3 ho
  · have hd' : s.su.done = false := by
      by_contra hn
      simp [txAdvance_done (Bool.not_eq_false _ ▸ hn)] at hd
    obtain ⟨hsnd, hdrn⟩ := h4 hd'
    constructor
    · intro e he
      obtain ⟨i, hi⟩ := List.mem_iff_getElem?.mp he
      obtain ⟨d, hdi, -, hst, -⟩ := txAdvance_getElem? hi
      simpa [hsnd d (List.mem_of_getElem? hdi)] using hst
    · simpa [hdrn] using (txAdvance_drn s).2.1

theorem transmitterOk_txAdvance (hl : s.cfg.legal = true) (h : TransmitterOk s) : TransmitterOk (txAdvance s) := by
  obtain ⟨h1, h2, h3⟩ := h
  have hh := legal_half_pos hl
  unfold TransmitterOk
  simp only [txAdvance_tx, txAdvance_cfg]
  cases hs : s.tx.state with
  | idle => simp [txNext, hs]
  | ending => simp [txNext, hs]
  | settle =>
    obtain ⟨h21, h22⟩ := h2 hs
    have h1 := h1 (by simp [hs])
    simp only [txNext, hs]
    split
    · simp [h1]; omega
    · simp [h1, hh]
  | hi =>
    obtain ⟨h31, h32⟩ := h3 (.inl hs)
    have h1 := h1 (by simp [hs])
    simp only [txNext, hs]
    split
    · simp [h1]; omega
    · simp [h1, hh]
  | lo =>
    obtain ⟨h31, h32⟩ := h3 (.inr hs)
    have h1 := h1 (by simp [hs])
    simp only [txNext, hs]
    split
    · simp [h1]; omega
    · split
      · simp [h1]
      next hz =>
        have hi : (s.tx.idx - 1#6).toNat = s.tx.idx.toNat - 1 := by bv_omega
        simp [h1, hi, hh]; omega

theorem ticksOk_txAdvance (h : TicksOk s) : TicksOk (txAdvance s) := by
  obtain ⟨hsnd, hdrn⟩ := h
  constructor
  · intro i l e hl he
    rw [txAdvance_cfg] at hl
    obtain ⟨d, hd, -, -, ht | ⟨l', hl', ht⟩⟩ := txAdvance_getElem? he
    · exact ht ▸ hsnd i l d hl hd
    · rw [hl, Option.some.injEq] at hl'
      subst hl'; omega
  · rw [txAdvance_cfg]
    rcases (txAdvance_drn s).2.2 with ht | ht <;> rw [ht]
    · exact hdrn
    · exact Nat.le_max_right _ _

theorem framesOk_txAdvance (h : FramesOk s) : FramesOk (txAdvance s) := by
  obtain ⟨hsnd, hdrn, htx⟩ := h
  refine ⟨fun i e r he hr hw => ?_, fun hw => ?_, fun hi => ?_⟩
  · obtain ⟨d, hd, hfr, hst, -⟩ := txAdvance_getElem? he
    rw [txAdvance_slots] at hr
    split at hst
    next => simp [hst] at hw
    next => exact hfr ▸ hsnd i d r hd hr (hst ▸ hw)
  · obtain ⟨hfr, hst, -⟩ := txAdvance_drn s
    split at hst
    next => simp [hst] at hw
    next => exact hfr ▸ hdrn (hst ▸ hw)
  · rw [txAdvance_tx, ne_eq, txNext_idle_iff, not_or] at hi
    simpa using htx hi.1

theorem unitsOk_txAdvance (h : UnitsOk s) : UnitsOk (txAdvance s) := by
  obtain ⟨hc, hl, hu, htx, htk, hf⟩ := h
  exact ⟨configOk_txAdvance hc, lineOk_txAdvance hl, startupOk_txAdvance hu, transmitterOk_txAdvance hc.1 htx,
    ticksOk_txAdvance htk, framesOk_txAdvance hf⟩

theorem inv_txAdvance (h : Inv s) : Inv (txAdvance s) := by
  obtain ⟨hu, hc, hq, hh⟩ := inv_iff.mp h
  refine inv_iff.mpr ⟨unitsOk_txAdvance hu, by simpa [ChannelsOk] using hc, by simpa [QueueOk] using hq, fun ha => ?_⟩
  obtain ⟨h1, h2⟩ := hh (by simpa using ha)
  exact ⟨by simpa using h1, by simp [txNext_of_idle _ h2, h2]⟩

end txAdvance

/-! ### Sub-step B -/

section ticks

variable {s : State}

/-- A tick counter that fits its width still fits it after `TickFires` (R27, R28, R162). -/
theorem tickFires_le {cnt period phase : Nat} (h : cnt ≤ max (period - 1) phase) :
    (tickFires cnt period).2 ≤ max (period - 1) phase := by
  unfold tickFires
  split
  · exact Nat.le_max_left _ _
  · exact (Nat.sub_le _ _).trans h

@[simp] theorem senderTick_tick (l : LocoCfg) (r : Slot) (d : Sender) :
    (senderTick l r d).tick = (tickFires d.tick l.period).2 := by
  rcases senderTick_cases l r d with h | ⟨-, -, h⟩ <;> rw [h]

/-- No tick puts a sender on the line or takes it off (R163, R164). -/
theorem senderTick_state_eq_tx {l : LocoCfg} {r : Slot} {d : Sender} :
    (senderTick l r d).state = .tx ↔ d.state = .tx := by
  rcases senderTick_cases l r d with h | ⟨hs, -, h⟩ <;> rw [h]
  simp [hs]

theorem senderIn_ticks_tx (s : State) (i : Nat) : SenderIn (ticks s) i .tx ↔ SenderIn s i .tx := by
  simp only [senderIn_iff, ticks_snd]
  constructor
  · rintro ⟨e, he, hst⟩
    obtain ⟨d, hd, rfl | ⟨l, r, -, -, rfl⟩⟩ := senderTicks_getElem?_cases he
    · exact ⟨_, hd, hst⟩
    · exact ⟨d, hd, senderTick_state_eq_tx.mp hst⟩
  · rintro ⟨d, hd, hst⟩
    obtain ⟨hi, -⟩ := List.getElem?_eq_some_iff.mp hd
    have he := List.getElem?_eq_getElem ((senderTicks_length s.cfg.locos s.slots s.snd).symm ▸ hi)
    refine ⟨_, he, ?_⟩
    obtain ⟨d', hd', h | ⟨l, r, -, -, h⟩⟩ := senderTicks_getElem?_cases he
    all_goals
      rw [hd, Option.some.injEq] at hd'
      subst hd'
      rw [h]
    · exact hst
    · exact senderTick_state_eq_tx.mpr hst

/-- What sub-step B does to the drain and the queue (R165, R166). -/
theorem ticks_drn_cases (s : State) :
    ((ticks s).queue = s.queue ∧ (ticks s).drn = { s.drn with tick := (tickFires s.drn.tick s.cfg.accPeriod).2 })
    ∨ (s.drn.state = .sleep ∧ ∃ e, s.queue = e :: (ticks s).queue
      ∧ (ticks s).drn = { state := .wait, frame := (encodeAccessory e.addr e.dev e.ctl e.en).1
                          tick := (tickFires s.drn.tick s.cfg.accPeriod).2 }) := by
  rcases drainTick_cases (s.setSnd (senderTicks s.cfg.locos s.slots s.snd)) with h | ⟨hs, -, e, rest, hq, h⟩
  · exact .inl (by rw [ticks, h]; exact ⟨rfl, rfl⟩)
  · exact .inr ⟨hs, e, by rw [ticks, h]; exact ⟨hq, rfl⟩⟩

theorem lineOk_ticks (h : LineOk s) : LineOk (ticks s) := by
  obtain ⟨hn, hsnd, hdrn, hlast⟩ := h
  refine ⟨by simpa using hn, by simpa [senderIn_ticks_tx] using hsnd, ?_, by simpa using hlast⟩
  rcases ticks_drn_cases s with ⟨-, h⟩ | ⟨hs, e, -, h⟩
  · simpa [h] using hdrn
  · simpa [h, hs] using hdrn

theorem startupOk_ticks (hd : s.su.done = true) (h : StartupOk s) : StartupOk (ticks s) := by
  obtain ⟨h1, h2, h3, -⟩ := h
  exact ⟨by simpa using h1, by simpa using h2, by simpa using h3, by simp [hd]⟩

theorem ticksOk_ticks (h : TicksOk s) : TicksOk (ticks s) := by
  obtain ⟨hsnd, hdrn⟩ := h
  constructor
  · intro i l e hl he
    rw [ticks_cfg] at hl
    rw [ticks_snd] at he
    obtain ⟨d, hd, rfl | ⟨l', r, hl', -, rfl⟩⟩ := senderTicks_getElem?_cases he
    · exact hsnd i l _ hl hd
    · rw [hl, Option.some.injEq] at hl'
      subst hl'
      rw [senderTick_tick]
      exact tickFires_le (hsnd i l d hl hd)
  · rw [ticks_cfg]
    rcases ticks_drn_cases s with ⟨-, h⟩ | ⟨-, e, -, h⟩ <;> rw [h] <;> exact tickFires_le hdrn

theorem framesOk_ticks (h : FramesOk s) : FramesOk (ticks s) := by
  obtain ⟨hsnd, hdrn, htx⟩ := h
  refine ⟨fun i e r he hr hw => ?_, fun hw => ?_, by simpa using htx⟩
  · rw [ticks_snd] at he
    rw [ticks_slots] at hr
    obtain ⟨d, hd, rfl | ⟨l, r', -, hr', rfl⟩⟩ := senderTicks_getElem?_cases he
    · exact hsnd i _ r hd hr hw
    · rw [hr, Option.some.injEq] at hr'
      subst hr'
      rcases senderTick_cases l r d with h | ⟨-, -, h⟩ <;> rw [h] at hw ⊢
      · exact hsnd i d r hd hr hw
      · exact ⟨_, _, _, rfl⟩
  · rcases ticks_drn_cases s with ⟨-, h⟩ | ⟨-, e, -, h⟩ <;> rw [h] at hw ⊢
    · exact hdrn hw
    · exact ⟨_, _, _, _, rfl⟩

theorem queueOk_ticks (h : QueueOk s) : QueueOk (ticks s) := by
  obtain ⟨hk, hl⟩ := h
  unfold QueueOk
  rw [ticks_cfg]
  rcases ticks_drn_cases s with ⟨hq, -⟩ | ⟨-, e, hq, -⟩
  · rw [hq]; exact ⟨hk, hl⟩
  · rw [hq] at hk hl
    exact ⟨hk.of_cons, (Nat.le_succ _).trans hl⟩

theorem inv_ticks (hd : s.su.done = true) (h : Inv s) : Inv (ticks s) := by
  obtain ⟨⟨hcf, hli, hsu, htx, htk, hfr⟩, hc, hq, hh⟩ := inv_iff.mp h
  exact inv_iff.mpr
    ⟨⟨by simpa [ConfigOk] using hcf, lineOk_ticks hli, startupOk_ticks hd hsu, by simpa [TransmitterOk] using htx,
      ticksOk_ticks htk, framesOk_ticks hfr⟩,
      by simpa [ChannelsOk] using hc, queueOk_ticks hq, by simpa [HaltOk] using hh⟩

theorem inv_advanceAndTick (h : Inv s) : Inv (advanceAndTick s) := by
  unfold advanceAndTick
  dsimp only
  split
  next ht =>
    simp only [tickEnable, Bool.and_eq_true] at ht
    exact inv_ticks (txAdvance_done ht.1) (inv_txAdvance h)
  next => exact inv_txAdvance h

end ticks

/-! ### Sub-step C -/

section handler

/-- An update in place that keeps what `f` reads keeps what `f` reads of the whole list. -/
theorem map_modify_of_comp_eq {α β : Type} {f : α → β} {g : α → α} (h : ∀ a, f (g a) = f a) (l : List α) (i : Nat) :
    (l.modify i g).map f = l.map f := by
  apply List.ext_getElem?
  intro j
  simp only [List.getElem?_map, List.getElem?_modify]
  cases l[j]? with
  | none => rfl
  | some a => by_cases hi : i = j <;> simp [hi, h]

/-- R146 keeps the keys distinct and the queue within its capacity (R24, R25). -/
theorem qEnqueueOrUpdate_keeps {depth : Nat} {q : List AccEntry} (e : AccEntry) (hk : (q.map entryKey).Nodup)
    (hl : q.length ≤ depth) :
    ((qEnqueueOrUpdate depth e q).2.map entryKey).Nodup ∧ (qEnqueueOrUpdate depth e q).2.length ≤ depth := by
  rcases qEnqueueOrUpdate_cases depth e q with ⟨j, -, h⟩ | ⟨hn, hlt, h⟩ | ⟨-, -, h⟩ <;> rw [h]
  · refine ⟨?_, by simpa using hl⟩
    rwa [map_modify_of_comp_eq (f := entryKey) (g := fun r => { r with ctl := e.ctl, en := e.en }) fun _ => rfl]
  · refine ⟨?_, by simpa using hlt⟩
    have hnot : entryKey e ∉ q.map entryKey := by
      simp only [List.mem_map, entryKey, Prod.mk.injEq, not_exists, not_and]
      exact fun a ha h1 h2 => qLookup_eq_none.mp hn a ha ⟨h1, h2⟩
    simpa [List.nodup_append, hk] using fun a ha heq => hnot (List.mem_map.mpr ⟨a, ha, heq⟩)
  · exact ⟨hk, hl⟩

variable {s t : State} {i : Instr}

/-- The handler never changes a slot's address (R141, R143). -/
theorem StoreEffect.addrs (h : StoreEffect s i t) : t.slots.map Slot.addr = s.slots.map Slot.addr := by
  cases h with
  | rejected => rfl
  | slot ack addr dir light speed j _ => rw [sendAck_slots, slotWrite_map_addr]
  | entry => rw [sendAck_slots]; rfl

theorem StoreEffect.queueOk (h : StoreEffect s i t) (hq : QueueOk s) : QueueOk t := by
  unfold QueueOk
  rw [h.frame.cfg]
  cases h with
  | rejected => exact hq
  | slot => rw [sendAck_queue]; exact hq
  | entry => rw [sendAck_queue]; exact qEnqueueOrUpdate_keeps _ hq.1 hq.2

/-- Only an acknowledgement touches the acknowledgement channel, by two bytes that have room (R56, R197). -/
theorem sendAck_channelsOk (w : Word) (h : ChannelsOk s) : ChannelsOk (sendAck w s) := by
  obtain ⟨hc, ha1, ha2⟩ := h
  rcases sendAck_cases w s with ⟨hroom, h⟩ | ⟨-, h⟩ <;> rw [h]
  · exact ⟨hc, by simp; omega, by simpa using hroom⟩
  · exact ⟨hc, ha1, ha2⟩

theorem StoreEffect.channelsOk (h : StoreEffect s i t) (hc : ChannelsOk s) : ChannelsOk t := by
  cases h with
  | rejected => exact hc
  | slot => exact sendAck_channelsOk _ hc
  | entry => exact sendAck_channelsOk _ hc

theorem StoreEffect.inv (h : StoreEffect s i t) (hi : Inv s) : Inv t := by
  obtain ⟨hu, hc, hq, hh⟩ := inv_iff.mp hi
  have hf := h.frame
  exact inv_iff.mpr ⟨(hf.unitsFrame h.addrs).unitsOk hu, h.channelsOk hc, h.queueOk hq,
    by rwa [HaltOk, hf.halted, hf.stopReq, hf.tx]⟩

/-- A word that is popped leaves whole words behind (R55, R57). -/
theorem inv_setCmdch_of_pop {w : Word} {rest : List Byte} (hp : chanPopWord s.cmdch = some (w, rest)) (h : Inv s) :
    Inv (s.setCmdch rest) := by
  obtain ⟨hu, ⟨⟨hc1, hc2⟩, ha⟩, hq, hh⟩ := inv_iff.mp h
  obtain ⟨b0, b1, hb, -⟩ := chanPopWord_eq_some.mp hp
  simp only [hb, List.length_cons] at hc1 hc2
  have heven : rest.length % 2 = 0 := by omega
  have hcap : rest.length ≤ s.cfg.chanCapBytes := by omega
  exact inv_iff.mpr ⟨hu, ⟨⟨heven, hcap⟩, ha⟩, hq, hh⟩

end handler

/-! ### Sub-step D -/

section grant

variable {s : State} {o : Owner} {f : Telegram}

/-- What a claim does to a sender (R171). -/
theorem claim_getElem? {i : Nat} {e : Sender} (h : (claim o s).snd[i]? = some e) :
    ∃ d, s.snd[i]? = some d ∧ e = { d with state := if o = .loco i then .tx else d.state } := by
  cases o with
  | none => exact ⟨e, h, by simp⟩
  | su => exact ⟨e, h, by simp⟩
  | drain => exact ⟨e, h, by simp⟩
  | loco j =>
    simp only [claim, State.setArbLast_snd, State.setSnd_snd, List.getElem?_modify] at h
    cases hd : s.snd[i]? with
    | none => simp [hd] at h
    | some d =>
      refine ⟨d, rfl, ?_⟩
      by_cases hj : j = i
      · simpa [hd, hj, eq_comm] using h
      · have he : d = e := by simpa [hd, hj] using h
        simp [he, hj]

theorem claim_drn (o : Owner) (s : State) :
    (claim o s).drn = { s.drn with state := if o = .drain then .tx else s.drn.state } := by
  cases o <;> simp [claim]

@[simp] theorem claim_snd_length (o : Owner) (s : State) : (claim o s).snd.length = s.snd.length := by
  cases o <;> simp [claim]

/-- The requester offered the line exists (R171). -/
theorem offered_getElem? {i : Nat} (h : offered s = some (.loco i, f)) :
    i < s.cfg.numLoco ∧ ∃ d, s.snd[i]? = some d ∧ d.state = .wait ∧ f = d.frame := by
  obtain ⟨-, -, h | ⟨-, r, d, hp, hr, hd, ho, hf⟩ | ⟨-, r, -, -, ho, -⟩⟩ := offered_eq_some h
  · simp at h
  · cases ho
    rcases waiting_eq_true.mp (roundRobinPick_some hp).1 with ⟨-, hw⟩ | ⟨hr', -⟩
    · exact ⟨hr, d, hd, by simpa [hd] using hw, hf⟩
    · omega
  · cases ho

/-- The drain is offered the line only while it waits (R171). -/
theorem offered_drain (h : offered s = some (.drain, f)) : s.drn.state = .wait ∧ f = s.drn.frame := by
  obtain ⟨-, -, h | ⟨-, r, d, -, -, -, ho, -⟩ | ⟨-, r, hp, hr, -, hf⟩⟩ := offered_eq_some h
  · simp at h
  · cases ho
  · rcases waiting_eq_true.mp (roundRobinPick_some hp).1 with ⟨hr', -⟩ | ⟨-, hw⟩
    · omega
    · exact ⟨hw, hf⟩

/-- The sequencer is offered the line only while startup lasts and a telegram of it is left (R169, R171). -/
theorem offered_su (h : offered s = some (.su, f)) :
    s.su.done = false ∧ suWants s.su = true ∧ f = suFrame s.su := by
  obtain ⟨-, -, ⟨hd, hw, -, hf⟩ | ⟨-, r, d, -, -, -, ho, -⟩ | ⟨-, r, -, -, ho, -⟩⟩ := offered_eq_some h
  · exact ⟨hd, hw, hf⟩
  · cases ho
  · cases ho

/-- Another requester than the sequencer is offered the line only after startup (R171). -/
theorem offered_done (h : offered s = some (o, f)) (ho : o ≠ .su) : s.su.done = true := by
  obtain ⟨-, -, h | h | h⟩ := offered_eq_some h
  · exact absurd h.2.2.1 ho
  · exact h.1
  · exact h.1

theorem offered_ne_none (h : offered s = some (o, f)) : o ≠ .none := by
  rintro rfl
  obtain ⟨-, -, h | ⟨-, r, d, -, -, -, ho, -⟩ | ⟨-, r, -, -, ho, -⟩⟩ := offered_eq_some h
  · simp at h
  · cases ho
  · cases ho

/-- What is put on the line is a telegram (R133, R171). -/
theorem isTelegram_of_offered (hc : ConfigOk s) (hf : FramesOk s) (h : offered s = some (o, f)) : IsTelegram f := by
  cases o with
  | none => exact absurd rfl (offered_ne_none h)
  | su =>
    rw [(offered_su h).2.2, suFrame]
    split <;> exact ⟨_, _, rfl⟩
  | loco i =>
    obtain ⟨-, d, hd, hw, rfl⟩ := offered_getElem? h
    obtain ⟨l, r, -, hr⟩ := configOk_getElem? hc hd
    obtain ⟨speed, dir, light, hfr⟩ := hf.1 i d r hd hr hw
    exact hfr ▸ ⟨_, _, rfl⟩
  | drain =>
    obtain ⟨hw, rfl⟩ := offered_drain h
    obtain ⟨addr, dev, ctl, en, hfr⟩ := hf.2.1 hw
    exact hfr ▸ ⟨_, _, rfl⟩

theorem claim_arbLast_le (h : offered s = some (o, f)) (hl : s.arbLast ≤ s.cfg.numLoco) :
    (claim o s).arbLast ≤ s.cfg.numLoco := by
  cases o with
  | none => exact hl
  | su => exact hl
  | loco i => exact (offered_getElem? h).1.le
  | drain => exact le_rfl

theorem lineOk_grant (h : offered s = some (o, f)) (hl : LineOk s) :
    LineOk ((claim o s).setTx (grantedTx o f s)) := by
  obtain ⟨hn, hsnd, hdrn, hlast⟩ := hl
  have hfree : s.tx.owner = .none := hn.mpr (offered_eq_some h).1
  refine ⟨by simp [grantedTx, offered_ne_none h], fun i => ?_, ?_, by simpa using claim_arbLast_le h hlast⟩
  · simp only [senderIn_iff, State.setTx_snd, State.setTx_tx, grantedTx]
    constructor
    · rintro ⟨e, he, hst⟩
      obtain ⟨d, hd, rfl⟩ := claim_getElem? he
      by_contra ho
      have hst' : d.state = .tx := by simpa [ho] using hst
      have := (hsnd i).mp (senderIn_iff.mpr ⟨d, hd, hst'⟩)
      simp [hfree] at this
    · rintro rfl
      obtain ⟨-, d, hd, -⟩ := offered_getElem? h
      exact ⟨{ d with state := .tx }, by simp [claim, hd], rfl⟩
  · have hnd : s.drn.state ≠ .tx := fun hd => by simp [hfree] at hdrn; exact hdrn hd
    rw [State.setTx_drn, claim_drn]
    by_cases ho : o = .drain
    · simp [ho, grantedTx]
    · simp [ho, grantedTx, hnd]

theorem startupOk_grant (h : offered s = some (o, f)) (hu : StartupOk s) :
    StartupOk ((claim o s).setTx (grantedTx o f s)) := by
  obtain ⟨h1, h2, -, h4⟩ := hu
  refine ⟨by simpa using h1, by simpa using h2, ?_, fun hd => ?_⟩
  · simp only [State.setTx_tx, State.setTx_su, grantedTx, claim_su]
    rintro rfl
    obtain ⟨hd, hw, -⟩ := offered_su h
    refine ⟨hd, ?_⟩
    rintro ⟨hr, hi⟩
    simp [suWants, hr, hi] at hw
  · simp only [State.setTx_su, claim_su] at hd
    have ho : o = .su := by
      by_contra ho
      simp [offered_done h ho] at hd
    subst ho
    exact h4 hd

theorem transmitterOk_grant (hl : s.cfg.legal = true) :
    TransmitterOk ((claim o s).setTx (grantedTx o f s)) := by
  simp [TransmitterOk, grantedTx, legal_settle_pos hl]

theorem ticksOk_grant (h : TicksOk s) : TicksOk ((claim o s).setTx (grantedTx o f s)) := by
  obtain ⟨hsnd, hdrn⟩ := h
  constructor
  · intro i l e hl he
    obtain ⟨d, hd, rfl⟩ := claim_getElem? he
    exact hsnd i l d (by simpa using hl) hd
  · simpa [claim_drn] using hdrn

theorem framesOk_grant (ht : IsTelegram f) (h : FramesOk s) : FramesOk ((claim o s).setTx (grantedTx o f s)) := by
  obtain ⟨hsnd, hdrn, -⟩ := h
  refine ⟨fun i e r he hr hw => ?_, fun hw => ?_, fun _ => ht⟩
  · obtain ⟨d, hd, rfl⟩ := claim_getElem? he
    simp only [State.setTx_slots, claim_slots] at hr
    dsimp only at hw
    split at hw
    · cases hw
    · exact hsnd i d r hd hr hw
  · rw [State.setTx_drn, claim_drn] at hw ⊢
    dsimp only at hw
    split at hw
    · cases hw
    · exact hdrn hw

theorem inv_grant (h : offered s = some (o, f)) (hi : Inv s) : Inv ((claim o s).setTx (grantedTx o f s)) := by
  obtain ⟨⟨hcf, hli, hsu, -, htk, hfr⟩, hc, hq, hh⟩ := inv_iff.mp hi
  have hrun : s.halted = false := by
    by_contra hn
    have := (hh (by simpa using hn)).1
    simp [(offered_eq_some h).2.1] at this
  exact inv_iff.mpr
    ⟨⟨by simpa [ConfigOk] using hcf, lineOk_grant h hli, startupOk_grant h hsu, transmitterOk_grant hcf.1,
      ticksOk_grant htk, framesOk_grant (isTelegram_of_offered hcf hfr h) hfr⟩,
      by simpa [ChannelsOk] using hc, by simpa [QueueOk] using hq, by simp [HaltOk, hrun]⟩

end grant

/-! ### Sub-step E, the host and the step -/

theorem inv_haltCheck {s : State} (h : Inv s) : Inv (haltCheck s) := by
  obtain ⟨hu, hc, hq, hh⟩ := inv_iff.mp h
  refine inv_iff.mpr
    ⟨(haltCheck_unitsFrame s).unitsOk hu, by simpa [ChannelsOk] using hc, by simpa [QueueOk] using hq, ?_⟩
  rw [haltCheck_eq]
  split
  next hs => exact fun _ => hs
  next => exact hh

theorem BlockStep.inv {s t : State} (h : BlockStep s t) (hi : Inv s) : Inv t := by
  cases h with
  | halted => exact hi
  | run t u hh hc hd =>
    have ht : Inv t := by
      rcases hc with rfl | ⟨-, w, rest, hp, -, he⟩
      · exact inv_advanceAndTick hi
      · exact he.inv (inv_setCmdch_of_pop (by simpa using hp) (inv_advanceAndTick hi))
    rcases hd with rfl | ⟨o, f, ho, rfl⟩
    · exact inv_haltCheck ht
    · exact inv_haltCheck (inv_grant ho ht)

theorem channelsOk_beforeEdge {s : State} (h : ChannelsOk s) : ChannelsOk (beforeEdge s) := by
  refine beforeEdge_induction (P := ChannelsOk) ?_ ?_ (fun _ ht => ht) (fun _ _ _ ht => ht) s h
  · rintro w t ⟨⟨hc1, hc2⟩, ha⟩
    rcases hostWrite_cases w t with h | ⟨hroom, h⟩ <;> rw [h]
    · exact ⟨⟨hc1, hc2⟩, ha⟩
    · exact ⟨⟨by simp; omega, by simpa using hroom⟩, ha⟩
  · rintro t ⟨hc, ha1, ha2⟩
    rcases hostRead_cases t with h | ⟨v, rest, hp, h⟩ <;> rw [h]
    · exact ⟨hc, ha1, ha2⟩
    · obtain ⟨b0, b1, hb, -⟩ := chanPopWord_eq_some.mp hp
      simp only [hb, List.length_cons] at ha1 ha2
      have heven : rest.length % 2 = 0 := by omega
      have hcap : rest.length ≤ t.cfg.chanCapBytes := by omega
      exact ⟨hc, heven, hcap⟩

theorem inv_beforeEdge {s : State} (h : Inv s) : Inv (beforeEdge s) := by
  obtain ⟨hu, hc, hq, hh⟩ := inv_iff.mp h
  have hf := beforeEdge_frame s
  refine inv_iff.mpr ⟨hf.unitsFrame.unitsOk hu, channelsOk_beforeEdge hc, ?_, fun ha => ?_⟩
  · rw [QueueOk, hf.queue, hf.cfg]; exact hq
  · obtain ⟨h1, h2⟩ := hh (hf.halted ▸ ha)
    exact ⟨hf.stopReq h1, hf.tx ▸ h2⟩

/-! ### Reset -/

theorem resetOf_getElem? {c : Config} {i : Nat} {d : Sender} (h : (State.resetOf c).snd[i]? = some d) :
    ∃ l, c.locos[i]? = some l ∧ d = Sender.reset c l.phase := by
  simpa [State.resetOf, eq_comm] using h

/-- A requester sleeps after reset (R37). -/
@[simp] theorem Sender.reset_state (c : Config) (phase : Nat) : (Sender.reset c phase).state = .sleep := rfl

theorem Sender.reset_tick_le (c : Config) (phase : Nat) : (Sender.reset c phase).tick ≤ phase := by
  unfold Sender.reset
  dsimp only
  split <;> simp

theorem resetOf_asleep (c : Config) : ∀ d ∈ (State.resetOf c).snd, d.state = .sleep := by
  intro d hd
  obtain ⟨i, hi⟩ := List.mem_iff_getElem?.mp hd
  obtain ⟨l, -, rfl⟩ := resetOf_getElem? hi
  rfl

/-- The startup counts after reset are the configured ones (R37); they fit 8 bits (R8). -/
theorem resetOf_resetLeft {c : Config} (h : c.legal = true) :
    (State.resetOf c).su.resetLeft.toNat = c.startupResetCount := by
  have := (legal_startup_le h).1
  simp [State.resetOf]; omega

theorem resetOf_idleLeft {c : Config} (h : c.legal = true) :
    (State.resetOf c).su.idleLeft.toNat = c.startupIdleCount := by
  have := (legal_startup_le h).2
  simp [State.resetOf]; omega

/-- Startup is done at reset exactly if neither counter has a telegram left (R37). -/
theorem resetOf_done {c : Config} (h : c.legal = true) :
    (State.resetOf c).su.done = true
      ↔ (State.resetOf c).su.resetLeft = 0#8 ∧ (State.resetOf c).su.idleLeft = 0#8 := by
  rw [State.resetOf_suDone, startupEmpty_eq_true, ← resetOf_resetLeft h, ← resetOf_idleLeft h]
  simp only [BitVec.toNat_eq, BitVec.toNat_ofNat, Nat.zero_mod]

theorem unitsOk_resetOf {c : Config} (h : c.legal = true) : UnitsOk (State.resetOf c) := by
  have hs : ∀ i u, SenderIn (State.resetOf c) i u → u = .sleep := by
    intro i u hi
    obtain ⟨d, hd, rfl⟩ := senderIn_iff.mp hi
    exact resetOf_asleep c d (List.mem_of_getElem? hd)
  refine ⟨⟨h, by simp [State.resetOf], by simp [State.resetOf, Config.numLoco]⟩, ⟨by simp, fun i => ?_, ?_, le_rfl⟩,
    ⟨(resetOf_done h).mp, fun hz => .inl ((resetOf_done h).mpr hz), by simp, fun _ => ⟨resetOf_asleep c, rfl⟩⟩,
    by simp [TransmitterOk], ⟨fun i l d hl hd => ?_, ?_⟩, ⟨fun i d r hd _ hw => ?_, by simp [State.resetOf], by simp⟩⟩
  · simpa using fun hi => absurd (hs i _ hi) (by decide)
  · simp [State.resetOf]
  · obtain ⟨l', hl', rfl⟩ := resetOf_getElem? hd
    rw [State.resetOf_cfg, hl', Option.some.injEq] at hl
    exact hl ▸ (Sender.reset_tick_le c _).trans (Nat.le_max_right _ _)
  · exact (Sender.reset_tick_le c _).trans (Nat.le_max_right _ _)
  · cases hs i _ (senderIn_iff.mpr ⟨d, hd, hw⟩)

theorem inv_resetOf {c : Config} (h : c.legal = true) : Inv (State.resetOf c) :=
  inv_iff.mpr ⟨unitsOk_resetOf h, by simp [ChannelsOk], by simp [QueueOk], by simp [HaltOk]⟩

end Sys2Proof.Machine

namespace Sys2Proof.Proofs

open Sys2Proof.Machine Sys2Proof.Safety

/-- Settles O59: the reset state of a legal configuration meets each invariant, and the reference configuration is legal. -/
theorem invariantsHoldAtReset : Obligations.InvariantsHoldAtReset :=
  ⟨fun _ h => inv_resetOf h, inv_resetOf (by decide)⟩

/-- Settles O60: a reset step answers the reset state, whose invariants do not read the world outside; any other step keeps
the invariants through the host's turn and then sub-step by sub-step. -/
theorem everyStepKeepsTheInvariants : Obligations.EveryStepKeepsTheInvariants := by
  intro s t hi h
  obtain ⟨hl, ⟨r, -, rfl⟩ | ⟨-, hb⟩⟩ := step_cases h
  · have hc : (beforeEdge s).cfg = s.cfg := (beforeEdge_frame s).cfg
    exact inv_resetOf (c := (beforeEdge s).cfg) (hc ▸ hl)
  · exact hb.inv (inv_beforeEdge hi)

end Sys2Proof.Proofs
end

section
/-! PROOFS. What a step leaves of the configuration, the stop, the halt and the slots (`10_state.md` R21, R23, R34), the outputs
(R32, R35) and the reset values (R37). -/

namespace Sys2Proof.Machine

open Sys2Proof.Safety

/-! ### What a step of the block keeps -/

section BlockStep

variable {s t : State}

/-- The block writes no parameter (R66), and itself neither raises nor drops a stop request (R34, R213). -/
theorem BlockStep.keeps (h : BlockStep s t) : t.cfg = s.cfg ∧ t.stopReq = s.stopReq := by
  cases h with
  | halted => exact ⟨rfl, rfl⟩
  | run t u hh hc hd =>
    have ht : t.cfg = s.cfg ∧ t.stopReq = s.stopReq := by
      rcases hc with rfl | ⟨-, w, rest, -, -, he⟩
      · simp
      · simp [he.frame.cfg, he.frame.stopReq]
    rcases hd with rfl | ⟨o, f, -, rfl⟩ <;> simp [ht]

/-- A halted block does not step at all (R161, R179). -/
theorem BlockStep.eq_of_halted (h : BlockStep s t) (hh : s.halted = true) : t = s := by
  cases h with
  | halted => rfl
  | run t u hr => simp [hh] at hr

/-- A popped word changes the slots only as a locomotive command for a slot it finds (R192). -/
theorem StoreEffect.slots_cases {i : Instr} (h : StoreEffect s i t) :
    t.slots = s.slots ∨ ∃ ack addr dir light speed j, i = .cmdLoco ack addr dir light speed ∧ lookup addr s = some j
      ∧ t.slots = s.slots.modify j (slotUpdate speed dir light) := by
  cases h with
  | rejected => exact .inl rfl
  | slot ack addr dir light speed j hj =>
    exact .inr ⟨ack, addr, dir, light, speed, j, rfl, hj, by rw [sendAck_slots]; rfl⟩
  | entry => exact .inl (by rw [sendAck_slots]; rfl)

/-- The same of a whole step of the block. -/
theorem BlockStep.slots_cases (h : BlockStep s t) :
    t.slots = s.slots ∨ ∃ w rest ack addr dir light speed j, chanPopWord s.cmdch = some (w, rest)
      ∧ decodeCommand w = .cmdLoco ack addr dir light speed ∧ lookup addr s = some j
      ∧ t.slots = s.slots.modify j (slotUpdate speed dir light) := by
  cases h with
  | halted => exact .inl rfl
  | run t u hh hc hd =>
    have hu : (haltCheck u).slots = t.slots := by
      rcases hd with rfl | ⟨o, f, -, rfl⟩ <;> simp
    rw [hu]
    rcases hc with rfl | ⟨-, w, rest, hp, -, he⟩
    · exact .inl (by simp)
    · rcases he.slots_cases with ht | ⟨ack, addr, dir, light, speed, j, hi, hj, ht⟩
      · exact .inl (by simpa using ht)
      · exact .inr ⟨w, rest, ack, addr, dir, light, speed, j, hp, hi, by simpa [lookup] using hj, by simpa using ht⟩

end BlockStep

/-- The slot found has the address looked for (R140). -/
theorem addr_of_lookup {addr : BitVec 7} {s : State} {j : Nat} {r : Slot} (h : lookup addr s = some j)
    (hr : s.slots[j]? = some r) : r.addr = addr := by
  rw [lookup_eq, List.findIdx?_eq_some_iff_getElem] at h
  obtain ⟨hj, ha, -⟩ := h
  rw [List.getElem?_eq_getElem hj, Option.some.injEq] at hr
  simpa [hr] using ha

/-- The word popped from a channel is the one its bytes decode to (R57, R88). -/
theorem decodeBytes_of_pop {ch rest : List Byte} {w : Word} (h : chanPopWord ch = some (w, rest)) :
    decodeBytes ch = .ok (decodeCommand w, rest) := by
  obtain ⟨b0, b1, rfl, rfl⟩ := chanPopWord_eq_some.mp h
  rfl

/-- A step that is no reset step, as the block's step at the clock edge. -/
theorem blockStep_of_noReset {s t : State} (hn : NoReset s) (h : step s = .next t) : BlockStep (atEdge s) t := by
  obtain ⟨-, ⟨r, hr, -⟩ | ⟨-, hb⟩⟩ := step_cases h
  · simp [NoReset, hr] at hn
  · exact hb

/-- The host's turn leaves a stop request as it is (R213). -/
theorem atEdge_stopReq {s : State} (h : s.stopReq = true) : (atEdge s).stopReq = true :=
  (beforeEdge_frame s).stopReq h

end Sys2Proof.Machine

namespace Sys2Proof.Proofs

open Sys2Proof.Machine Sys2Proof.Safety

/-- Settles O44: the host's turn keeps a stop request, the block never drops it, and a halted block does not step. -/
theorem onlyResetLeavesTheStop : Obligations.OnlyResetLeavesTheStop := by
  intro s t hn h
  have hb := blockStep_of_noReset hn h
  obtain ⟨-, -, -, -, -, -, -, -, hhalted, -⟩ := atEdge_frame s
  constructor
  · intro hs
    rw [hb.keeps.2, atEdge_stopReq hs]
  · intro hh
    rw [← hhalted] at hh
    rwa [hb.eq_of_halted hh]

/-- Settles O52. -/
theorem configurationIsNeverWritten : Obligations.ConfigurationIsNeverWritten := by
  intro s t h
  have hc : (beforeEdge s).cfg = s.cfg := (beforeEdge_frame s).cfg
  obtain ⟨-, ⟨r, -, rfl⟩ | ⟨-, hb⟩⟩ := step_cases h
  · exact hc
  · exact hb.keeps.1.trans hc

/-- Settles O53: the one thing a step does to the slots is an update that keeps the address. -/
theorem slotAddressesAreFixed : Obligations.SlotAddressesAreFixed := by
  intro s t hn h
  obtain ⟨-, hslots, -⟩ := atEdge_frame s
  rcases (blockStep_of_noReset hn h).slots_cases with ht | ⟨w, rest, ack, addr, dir, light, speed, j, -, -, -, ht⟩
  · rw [ht, hslots]
  · rw [ht, hslots, map_modify_of_comp_eq (slotUpdate_addr speed dir light)]

/-- Settles O54: a slot that changed is the one the handler's locomotive command looked up. -/
theorem onlyItsCommandChangesASlot : Obligations.OnlyItsCommandChangesASlot := by
  intro s t i r hn h hr hne
  obtain ⟨-, hslots, -⟩ := atEdge_frame s
  rw [← hslots] at hr
  rcases (blockStep_of_noReset hn h).slots_cases with ht | ⟨w, rest, ack, addr, dir, light, speed, j, hp, hw, hj, ht⟩
  · exact absurd (ht ▸ hr) hne
  · have hti : t.slots[i]? = some (if j = i then slotUpdate speed dir light r else r) := by
      rw [ht, List.getElem?_modify, hr]
      split <;> rfl
    by_cases hji : j = i
    · subst hji
      rw [if_pos rfl] at hti
      refine ⟨ack, dir, light, speed, rest, ?_, hti⟩
      rw [decodeBytes_of_pop hp, hw, addr_of_lookup hj hr]
    · rw [if_neg hji] at hti
      exact absurd hti hne

/-- Settles O33: the line level by transmitter state, the error ports by the event. -/
theorem outputsFollowTheState : Obligations.OutputsFollowTheState := by
  intro s
  refine ⟨fun hh => by simp [dccOut, hh], fun hh => ?_, rfl, rfl, fun he => ?_, fun e he => ?_⟩
  · cases hs : s.tx.state <;> simp [dccOut, lineLevel, hh, hs]
  · simp [errValid, errCode, errWord, he]
  · have hcode : errCode s = errKindCode e.kind := by simp [errCode, he]
    refine ⟨by simp [errValid, he], by simp [errWord, he], ?_, ?_, ?_, ?_⟩ <;>
      exact fun hk => by rw [hcode, hk]; rfl

/-- Settles O57: the counts fit 8 bits by R8, and with nothing to send `su.done` is 1, so each counter holds its phase. -/
theorem resetValues : Obligations.ResetValues := by
  intro c hl
  refine ⟨rfl, rfl, rfl, rfl, rfl, by simp [State.resetOf, Config.numLoco], resetOf_asleep c, rfl, resetOf_resetLeft hl,
    resetOf_idleLeft hl, startupEmpty_eq_true, rfl, rfl, rfl, rfl, rfl, rfl, fun h => ?_⟩
  have hphase : ∀ phase, (Sender.reset c phase).tick = phase := fun phase => if_pos (startupEmpty_eq_true.mpr h)
  exact ⟨by simp [State.resetOf, hphase], hphase _⟩

end Sys2Proof.Proofs
end

section
/-! PROOFS. No step reads an element that holds no value (`10_state.md` R37, `93_implementation_defined.md` U6). Two states that
agree differ in their requesters and transmitter alone: what does not touch these commutes with exchanging them, and what does
is compared field by field. -/

namespace Sys2Proof.Machine

open Sys2Proof.Safety

/-! ### Exchanging the requesters and the transmitter -/

/-- The state with other senders, another drain and another transmitter. -/
def State.withUnits (s : State) (snd : List Sender) (drn : Sender) (tx : Transmitter) : State :=
  ((s.setSnd snd).setDrn drn).setTx tx

section withUnits

variable (s : State) (a : List Sender) (b : Sender) (c : Transmitter)

@[simp] theorem State.withUnits_cfg : (s.withUnits a b c).cfg = s.cfg := rfl
@[simp] theorem State.withUnits_slots : (s.withUnits a b c).slots = s.slots := rfl
@[simp] theorem State.withUnits_queue : (s.withUnits a b c).queue = s.queue := rfl
@[simp] theorem State.withUnits_cmdch : (s.withUnits a b c).cmdch = s.cmdch := rfl
@[simp] theorem State.withUnits_ackch : (s.withUnits a b c).ackch = s.ackch := rfl
@[simp] theorem State.withUnits_snd : (s.withUnits a b c).snd = a := rfl
@[simp] theorem State.withUnits_drn : (s.withUnits a b c).drn = b := rfl
@[simp] theorem State.withUnits_su : (s.withUnits a b c).su = s.su := rfl
@[simp] theorem State.withUnits_arbLast : (s.withUnits a b c).arbLast = s.arbLast := rfl
@[simp] theorem State.withUnits_tx : (s.withUnits a b c).tx = c := rfl
@[simp] theorem State.withUnits_stopReq : (s.withUnits a b c).stopReq = s.stopReq := rfl
@[simp] theorem State.withUnits_halted : (s.withUnits a b c).halted = s.halted := rfl
@[simp] theorem State.withUnits_env : (s.withUnits a b c).env = s.env := rfl

theorem hostWrite_withUnits (w : Word) :
    hostWrite w (s.withUnits a b c) = ((hostWrite w s).1, (hostWrite w s).2.withUnits a b c) := by
  by_cases hh : s.halted = true
  · simp [hostWrite, hh]
  · simp only [hostWrite, State.withUnits_halted, State.withUnits_cfg, State.withUnits_cmdch, hh, Bool.false_eq_true,
      ↓reduceIte]
    cases chanPushWord s.cfg.chanCapBytes s.cmdch w <;> rfl

theorem hostRead_withUnits :
    hostRead (s.withUnits a b c) = ((hostRead s).1, (hostRead s).2.withUnits a b c) := by
  by_cases hh : s.halted = true
  · simp [hostRead, hh]
  · simp only [hostRead, State.withUnits_halted, State.withUnits_ackch, hh, Bool.false_eq_true, ↓reduceIte]
    cases chanPopWord s.ackch <;> rfl

theorem startAttempt_withUnits (w : Word) (left : Nat) (os : List Nat) :
    startAttempt w left os (s.withUnits a b c) = (startAttempt w left os s).withUnits a b c := by
  simp only [startAttempt, hostWrite_withUnits]; rfl

theorem finishAttempt_withUnits (k : Client) :
    finishAttempt k (s.withUnits a b c) = (finishAttempt k s).withUnits a b c := by
  simp only [finishAttempt, hostRead_withUnits, startAttempt_withUnits]
  split
  · rfl
  · split <;> rfl

theorem runProg_withUnits (p : List HostOp) : runProg p (s.withUnits a b c) = (runProg p s).withUnits a b c := by
  induction p generalizing s with
  | nil => rfl
  | cons op p ih =>
    cases op with
    | write w => simp only [runProg, hostWrite_withUnits]; exact ih (reply (hostWrite w s).1 (hostWrite w s).2)
    | read => simp only [runProg, hostRead_withUnits]; exact ih (reply (hostRead s).1 (hostRead s).2)
    | stop => exact ih (hostStop s)
    | step n =>
      cases n with
      | zero => exact ih s
      | succ n => rfl
    | send w attempts os =>
      simp only [runProg, State.withUnits_cfg, startAttempt_withUnits]
      split
      · exact ih (reply (.failed { kind := .deliveryTimeout, word := w }) s)
      · rfl

theorem clientTurn_withUnits : clientTurn (s.withUnits a b c) = (clientTurn s).withUnits a b c := by
  simp only [clientTurn, State.withUnits_env, finishAttempt_withUnits]
  split
  · split <;> rfl
  · rfl

theorem hostTurn_withUnits : hostTurn (s.withUnits a b c) = (hostTurn s).withUnits a b c := by
  simp only [hostTurn, clientTurn_withUnits, State.withUnits_env, runProg_withUnits]
  split <;> rfl

theorem passTime_withUnits : passTime (s.withUnits a b c) = (passTime s).withUnits a b c := by
  simp only [passTime, State.withUnits_env]
  split <;> rfl

/-- The host neither sees nor touches the requesters and the transmitter (R210, R214). -/
theorem beforeEdge_withUnits : beforeEdge (s.withUnits a b c) = (beforeEdge s).withUnits a b c := by
  have hclear : clearOutputs (s.withUnits a b c) = (clearOutputs s).withUnits a b c := rfl
  rw [beforeEdge, hclear, hostTurn_withUnits, passTime_withUnits]; rfl

theorem sendAck_withUnits (w : Word) : sendAck w (s.withUnits a b c) = (sendAck w s).withUnits a b c := by
  simp only [sendAck, State.withUnits_cfg, State.withUnits_ackch]
  split <;> rfl

end withUnits

/-! ### Agreement -/

/-- Two transmitters agree in every element that holds a value: all but owner and state only while a telegram is on the line
(R31, R37). -/
def TxAgree (x y : Transmitter) : Prop := x.owner = y.owner ∧ x.state = y.state ∧ (x.state ≠ .idle → x = y)

theorem TxAgree.refl (x : Transmitter) : TxAgree x x := ⟨rfl, rfl, fun _ => rfl⟩

theorem senderAgree_refl (done : Bool) (d : Sender) : SenderAgree done d d := ⟨rfl, fun _ => rfl, fun _ => rfl⟩

/-- The requesters and the transmitter of a state agree with others. -/
def UnitsAgree (s : State) (a : List Sender) (b : Sender) (c : Transmitter) : Prop :=
  List.Forall₂ (SenderAgree s.su.done) s.snd a ∧ SenderAgree s.su.done s.drn b ∧ TxAgree s.tx c

/-- States that agree are one state with two sets of requesters and transmitters that agree. -/
theorem agree_iff {s t : State} : Agree s t ↔ ∃ a b c, t = s.withUnits a b c ∧ UnitsAgree s a b c := by
  constructor
  · rintro ⟨hcfg, hslots, hq, hcmd, hack, hsnd, hdrn, hsu, hlast, htx, hstop, hhalt, herr, henv⟩
    refine ⟨t.snd, t.drn, t.tx, ?_, hsnd, hdrn, htx⟩
    cases s; cases t
    simp_all [State.withUnits, State.setSnd, State.setDrn, State.setTx]
  · rintro ⟨a, b, c, rfl, hsnd, hdrn, htx⟩
    exact ⟨rfl, rfl, rfl, rfl, rfl, hsnd, hdrn, rfl, rfl, htx, rfl, rfl, rfl, rfl⟩

theorem agree_refl (s : State) : Agree s s :=
  agree_iff.mpr ⟨s.snd, s.drn, s.tx, rfl, List.forall₂_same.mpr fun d _ => senderAgree_refl _ d, senderAgree_refl _ _,
    TxAgree.refl _⟩

section setters

variable {s t : State}

/-- What commutes with exchanging the requesters and the transmitter keeps the agreement, as long as startup is as far on. -/
theorem agree_of_commutes {F : State → State} (hF : ∀ s a b c, F (s.withUnits a b c) = (F s).withUnits a b c)
    (hd : (F s).su.done = s.su.done) (h : Agree s t) : Agree (F s) (F t) := by
  obtain ⟨a, b, c, rfl, hu⟩ := agree_iff.mp h
  have hown : F s = (F s).withUnits s.snd s.drn s.tx := hF s s.snd s.drn s.tx
  refine agree_iff.mpr ⟨a, b, c, hF s a b c, ?_⟩
  unfold UnitsAgree
  rw [hd, hown]
  exact hu

theorem agree_setTx {x y : Transmitter} (hxy : TxAgree x y) (h : Agree s t) : Agree (s.setTx x) (t.setTx y) := by
  obtain ⟨a, b, c, rfl, hsnd, hdrn, -⟩ := agree_iff.mp h
  exact agree_iff.mpr ⟨a, b, y, rfl, hsnd, hdrn, hxy⟩

theorem agree_setSnd {x y : List Sender} (hxy : List.Forall₂ (SenderAgree s.su.done) x y) (h : Agree s t) :
    Agree (s.setSnd x) (t.setSnd y) := by
  obtain ⟨a, b, c, rfl, -, hdrn, htx⟩ := agree_iff.mp h
  exact agree_iff.mpr ⟨y, b, c, rfl, hxy, hdrn, htx⟩

theorem agree_setDrn {x y : Sender} (hxy : SenderAgree s.su.done x y) (h : Agree s t) :
    Agree (s.setDrn x) (t.setDrn y) := by
  obtain ⟨a, b, c, rfl, hsnd, -, htx⟩ := agree_iff.mp h
  exact agree_iff.mpr ⟨a, y, c, rfl, hsnd, hxy, htx⟩

/-- A requester that leaves `WAIT` drops its frame, and what is left still agrees (R37). -/
theorem senderAgree_setState {done : Bool} {d e : Sender} {u : UnitState} (hu : u ≠ .wait) (h : SenderAgree done d e) :
    SenderAgree done { d with state := u } { e with state := u } :=
  ⟨rfl, fun hw => absurd hw hu, h.2.2⟩

theorem forall₂_setState {done : Bool} {u : UnitState} (hu : u ≠ .wait) {x y : List Sender}
    (h : List.Forall₂ (SenderAgree done) x y) (i : Nat) :
    List.Forall₂ (SenderAgree done) (x.modify i fun d => { d with state := u })
      (y.modify i fun d => { d with state := u }) := by
  induction h generalizing i with
  | nil => simp
  | cons hd htl ih =>
    cases i with
    | zero => simpa using ⟨senderAgree_setState hu hd, htl⟩
    | succ i => simpa using ⟨hd, ih i⟩

/-- A sender of one side has its counterpart on the other. -/
theorem forall₂_getElem? {done : Bool} {x y : List Sender} (h : List.Forall₂ (SenderAgree done) x y) {i : Nat} {d : Sender}
    (hd : x[i]? = some d) : ∃ e, y[i]? = some e ∧ SenderAgree done d e := by
  obtain ⟨hi, rfl⟩ := List.getElem?_eq_some_iff.mp hd
  have hi' : i < y.length := h.length_eq ▸ hi
  exact ⟨y[i], List.getElem?_eq_getElem hi', h.get hi hi'⟩

end setters

/-! ### Sub-step A -/

section advance

variable {s t : State}

theorem TxAgree.txNext {x y : Transmitter} (c : Config) (h : TxAgree x y) : TxAgree (txNext c x) (txNext c y) := by
  by_cases hi : x.state = .idle
  · rwa [txNext_of_idle c hi, txNext_of_idle c (h.2.1 ▸ hi)]
  · rw [h.2.2 hi]
    exact TxAgree.refl _

/-- Senders whose counters have just been loaded agree in them (R167). -/
theorem forall₂_loadPhases {done : Bool} {x y : List Sender} (h : List.Forall₂ (SenderAgree done) x y) (ls : List LocoCfg) :
    List.Forall₂ (SenderAgree true) (x.zipWith (fun d l => { d with tick := l.phase }) ls)
      (y.zipWith (fun d l => { d with tick := l.phase }) ls) := by
  induction h generalizing ls with
  | nil => simp
  | cons hd _ ih =>
    cases ls with
    | nil => simp
    | cons l ls => exact .cons ⟨hd.1, hd.2.1, fun _ => rfl⟩ (ih ls)

/-- When startup ends, every tick counter takes its first value (R167): each sender has a phase in a legal configuration. -/
theorem agree_loadPhases (u : Startup) (hdone : u.done = true) (hn : s.snd.length = s.cfg.numLoco) (h : Agree s t) :
    Agree (loadPhases (s.setSu u)) (loadPhases (t.setSu u)) := by
  obtain ⟨a, b, c, rfl, hsnd, hdrn, htx⟩ := agree_iff.mp h
  have hna : a.length = s.cfg.numLoco := hsnd.length_eq ▸ hn
  refine agree_iff.mpr ⟨_, _, c, rfl, ?_, ?_, htx⟩
  · simp only [loadPhases, State.setDrn_su, State.setSnd_su, State.setSu_su, hdone, State.setDrn_snd, State.setSnd_snd,
      State.setSu_snd, State.setSu_cfg, State.withUnits_snd, State.withUnits_cfg]
    have hds : s.snd.drop s.cfg.locos.length = [] := List.drop_eq_nil_of_le hn.le
    have hda : a.drop s.cfg.locos.length = [] := List.drop_eq_nil_of_le hna.le
    rw [hds, hda, List.append_nil, List.append_nil]
    exact forall₂_loadPhases hsnd _
  · exact ⟨hdrn.1, hdrn.2.1, fun _ => rfl⟩

theorem agree_complete (o : Owner) (hn : s.snd.length = s.cfg.numLoco) (h : Agree s t) :
    Agree (complete o s) (complete o t) := by
  obtain ⟨a, b, c, rfl, hsnd, hdrn, -⟩ := agree_iff.mp h
  cases o with
  | none => exact h
  | loco i => exact agree_setSnd (forall₂_setState (by decide) hsnd i) h
  | drain => exact agree_setDrn (senderAgree_setState (by decide) hdrn) h
  | su =>
    have hcounted : Agree (s.setSu (startupCount s.su)) ((s.withUnits a b c).setSu (startupCount s.su)) :=
      agree_of_commutes (F := fun s' => s'.setSu (startupCount s.su)) (fun _ _ _ _ => rfl) (startupCount_done _) h
    have hloaded := agree_loadPhases { startupCount s.su with done := true } rfl hn h
    simp only [complete, startupDone_eq, State.withUnits_su, State.withUnits_stopReq]
    by_cases hz : (startupCount s.su).resetLeft = 0#8 ∧ (startupCount s.su).idleLeft = 0#8 ∧ s.stopReq = false
    · simpa only [hz, and_self, ↓reduceIte] using hloaded
    · simpa only [hz, ↓reduceIte] using hcounted

theorem agree_txAdvance (hn : s.snd.length = s.cfg.numLoco) (h : Agree s t) : Agree (txAdvance s) (txAdvance t) := by
  obtain ⟨a, b, c, rfl, -, -, htx⟩ := agree_iff.mp h
  have hnext : Agree (s.setTx (txNext s.cfg s.tx)) ((s.withUnits a b c).setTx (txNext s.cfg c)) :=
    agree_setTx (htx.txNext s.cfg) h
  simp only [txAdvance, State.withUnits_tx, State.withUnits_cfg, ← htx.1, ← htx.2.1]
  split
  · exact agree_complete _ hn hnext
  · exact hnext

end advance

/-! ### Sub-step B -/

section ticks

variable {s t : State}

theorem agree_senderTick (l : LocoCfg) (r : Slot) {d e : Sender} (h : SenderAgree true d e) :
    SenderAgree true (senderTick l r d) (senderTick l r e) := by
  obtain ⟨hst, hfr, htk⟩ := h
  have htk := htk rfl
  simp only [senderTick, ← hst, ← htk]
  split
  · exact senderAgree_refl _ _
  · exact ⟨rfl, hfr, fun _ => rfl⟩

theorem agree_senderTicks (ls : List LocoCfg) (rs : List Slot) {x y : List Sender}
    (h : List.Forall₂ (SenderAgree true) x y) :
    List.Forall₂ (SenderAgree true) (senderTicks ls rs x) (senderTicks ls rs y) := by
  induction h generalizing ls rs with
  | nil => rw [List.eq_nil_of_length_eq_zero (senderTicks_length ls rs [])]; exact .nil
  | cons hd htl ih =>
    cases ls with
    | nil => exact .cons hd htl
    | cons l ls =>
      cases rs with
      | nil => exact .cons hd htl
      | cons r rs => exact .cons (agree_senderTick l r hd) (ih ls rs)

theorem agree_drainTick (hdone : s.su.done = true) (h : Agree s t) : Agree (drainTick s) (drainTick t) := by
  obtain ⟨a, b, c, rfl, -, ⟨hst, hfr, htk⟩, -⟩ := agree_iff.mp h
  have htk := htk hdone
  have hmoved : Agree (s.setDrn { s.drn with tick := (tickFires s.drn.tick s.cfg.accPeriod).2 })
      ((s.withUnits a b c).setDrn { b with state := s.drn.state, tick := (tickFires s.drn.tick s.cfg.accPeriod).2 }) :=
    agree_setDrn ⟨rfl, hfr, fun _ => rfl⟩ h
  simp only [drainTick, State.withUnits_drn, State.withUnits_cfg, State.withUnits_queue, ← hst, ← htk]
  split
  · split
    · exact hmoved
    next e rest _ =>
      have hq : Agree (s.setQueue rest) ((s.withUnits a b c).setQueue rest) :=
        agree_of_commutes (F := fun s' => s'.setQueue rest) (fun _ _ _ _ => rfl) rfl h
      exact agree_setDrn (senderAgree_refl _ _) hq
  · exact hmoved

theorem agree_ticks (hdone : s.su.done = true) (h : Agree s t) : Agree (ticks s) (ticks t) := by
  obtain ⟨a, b, c, rfl, hsnd, -⟩ := agree_iff.mp h
  rw [hdone] at hsnd
  exact agree_drainTick hdone (agree_setSnd (hdone.symm ▸ agree_senderTicks _ _ hsnd) h)

theorem agree_advanceAndTick (hn : s.snd.length = s.cfg.numLoco) (h : Agree s t) :
    Agree (advanceAndTick s) (advanceAndTick t) := by
  have hadv := agree_txAdvance hn h
  obtain ⟨a, b, c, rfl, -⟩ := agree_iff.mp h
  have hen : tickEnable (s.withUnits a b c) = tickEnable s := rfl
  simp only [advanceAndTick, hen]
  split
  next ht =>
    simp only [tickEnable, Bool.and_eq_true] at ht
    exact agree_ticks (txAdvance_done ht.1) hadv
  next => exact hadv

end ticks

/-! ### Sub-steps C to E -/

/-- Both answer next states, and these agree. -/
def AgreeNext (p q : Result) : Prop := ∃ s t, p = .next s ∧ q = .next t ∧ Agree s t

theorem AgreeNext.of_agree {s t : State} (h : Agree s t) : AgreeNext (.next s) (.next t) := ⟨s, t, rfl, rfl, h⟩

theorem AgreeNext.andThen {p q : Result} {f g : State → Result} (h : AgreeNext p q)
    (hfg : ∀ s t, Agree s t → AgreeNext (f s) (g t)) : AgreeNext (andThen p f) (andThen q g) := by
  obtain ⟨s, t, rfl, rfl, hst⟩ := h
  exact hfg s t hst

section handler

variable {s t : State}

/-- A command word reads and changes the store, the acknowledgement channel and the error output alone (R192 to R197). -/
theorem agree_exec_command (w : Word) (h : Agree s t) :
    AgreeNext (exec (decodeCommand w) s) (exec (decodeCommand w) t) := by
  have hraise : ∀ k v, AgreeNext (.next (raise k v s)) (.next (raise k v t)) := fun k v =>
    .of_agree (agree_of_commutes (F := raise k v) (fun _ _ _ _ => rfl) rfl h)
  obtain ⟨a, b, c, rfl, -⟩ := agree_iff.mp h
  unfold decodeCommand
  split
  · have hlook : lookup (locoAddr w) (s.withUnits a b c) = lookup (locoAddr w) s := rfl
    simp only [exec, execCmdLoco, hlook]
    split
    · exact hraise _ _
    next i _ =>
      exact .of_agree (agree_of_commutes (F := fun s' => sendAck _ (slotWrite i _ _ _ s'))
        (fun s' a b c => sendAck_withUnits (slotWrite i _ _ _ s') a b c _) (by rw [(sendAck_frame _ _).su]; rfl) h)
  · split
    · have hack : ∀ v q, AgreeNext (.next (sendAck v (s.setQueue q)))
          (.next (sendAck v ((s.withUnits a b c).setQueue q))) :=
        fun v q => .of_agree (agree_of_commutes (F := fun s' => sendAck v (s'.setQueue q))
          (fun s' a b c => sendAck_withUnits (s'.setQueue q) a b c v) (by rw [(sendAck_frame _ _).su]; rfl) h)
      simp only [exec, execCmdAcc, State.withUnits_cfg, State.withUnits_queue]
      split
      · exact hack _ _
      · exact hack _ _
      · exact hraise _ _
    · split
      · exact hraise _ _
      · exact hraise _ _

theorem agree_handlerStep (h : Agree s t) : AgreeNext (handlerStep s) (handlerStep t) := by
  obtain ⟨a, b, c, rfl, -⟩ := agree_iff.mp h
  simp only [handlerStep, State.withUnits_cmdch]
  split
  next w rest _ =>
    exact agree_exec_command w (agree_of_commutes (F := fun s' => s'.setCmdch rest) (fun _ _ _ _ => rfl) rfl h)
  next => exact .of_agree h

end handler

section arbiter

variable {s : State} {a : List Sender} {b : Sender} {c : Transmitter}

/-- Who waits is told by the states of the requesters, which agree (R172). -/
theorem waiting_withUnits (h : UnitsAgree s a b c) (r : Nat) : waiting (s.withUnits a b c) r = waiting s r := by
  obtain ⟨hsnd, ⟨hst, -⟩, -⟩ := h
  have hstate : a[r]?.map Sender.state = s.snd[r]?.map Sender.state := by
    cases hd : s.snd[r]? with
    | none =>
      rw [List.getElem?_eq_none (hsnd.length_eq ▸ List.getElem?_eq_none_iff.mp hd)]
    | some d =>
      obtain ⟨e, he, hde⟩ := forall₂_getElem? hsnd hd
      rw [he, Option.map_some, Option.map_some, hde.1]
  rw [Bool.eq_iff_iff, waiting_eq_true, waiting_eq_true]
  simp [hstate, ← hst]

/-- The line is offered to the same requester with the same telegram, since the arbiter reads frames of waiting requesters only
(R171). -/
theorem offered_withUnits (h : UnitsAgree s a b c) : offered (s.withUnits a b c) = offered s := by
  have hpick : roundRobinPick (s.withUnits a b c) = roundRobinPick s := by
    unfold roundRobinPick
    rw [funext (waiting_withUnits h)]; rfl
  obtain ⟨hsnd, ⟨-, hdfr, -⟩, -, htx, -⟩ := h
  simp only [offered, hpick, State.withUnits_tx, State.withUnits_stopReq, State.withUnits_su, State.withUnits_cfg,
    State.withUnits_snd, State.withUnits_drn, ← htx]
  split
  · rfl
  split
  · rfl
  cases hr : roundRobinPick s with
  | none => rfl
  | some r =>
    dsimp only
    rcases waiting_eq_true.mp (roundRobinPick_some hr).1 with ⟨hlt, hw⟩ | ⟨rfl, hw⟩
    · obtain ⟨d, hd, hdw⟩ := Option.map_eq_some_iff.mp hw
      obtain ⟨e, he, -, hfr, -⟩ := forall₂_getElem? hsnd hd
      simp [hlt, hd, he, hfr hdw]
    · simp [hdfr hw]

theorem agree_setArbLast {s t : State} (n : Nat) (h : Agree s t) : Agree (s.setArbLast n) (t.setArbLast n) :=
  agree_of_commutes (F := fun s' => s'.setArbLast n) (fun _ _ _ _ => rfl) rfl h

theorem agree_claim {s t : State} (o : Owner) (h : Agree s t) : Agree (claim o s) (claim o t) := by
  obtain ⟨a, b, c, rfl, hsnd, hdrn, -⟩ := agree_iff.mp h
  cases o with
  | none => exact h
  | su => exact h
  | loco i => exact agree_setArbLast i (agree_setSnd (forall₂_setState (by decide) hsnd i) h)
  | drain => exact agree_setArbLast _ (agree_setDrn (senderAgree_setState (by decide) hdrn) h)

theorem agree_grantTo {s t : State} (o : Owner) (f : Telegram) (h : Agree s t) :
    AgreeNext (grantTo o f s) (grantTo o f t) := by
  have hclaim := agree_claim o h
  obtain ⟨a, b, c, rfl, -⟩ := agree_iff.mp h
  rw [grantTo_eq, grantTo_eq]
  exact .of_agree (agree_setTx (TxAgree.refl _) hclaim)

/-- The line is offered alike in states that agree. -/
theorem offered_of_agree {s t : State} (h : Agree s t) : offered t = offered s := by
  obtain ⟨a, b, c, rfl, hu⟩ := agree_iff.mp h
  exact offered_withUnits hu

theorem agree_transmit {s t : State} (f : Telegram) (h : Agree s t) : AgreeNext (transmit f s) (transmit f t) := by
  simp only [transmit, offered_of_agree h]
  split
  · split
    · exact agree_grantTo _ _ h
    · exact .of_agree h
  · exact .of_agree h

theorem agree_arbitrate {s t : State} (h : Agree s t) : AgreeNext (arbitrate s) (arbitrate t) := by
  simp only [arbitrate, offered_of_agree h]
  split
  · exact .of_agree h
  · split
    next hi =>
      obtain ⟨u, hu, hs⟩ := exec_telegram hi s
      obtain ⟨v, hv, ht⟩ := exec_telegram hi t
      cases hu.symm.trans hv
      rw [hs, ht]
      exact agree_transmit u h
    next => exact agree_grantTo _ _ h

end arbiter

section step

variable {s t : State}

theorem agree_haltCheck (h : Agree s t) : Agree (haltCheck s) (haltCheck t) := by
  obtain ⟨a, b, c, rfl, -, -, htx⟩ := agree_iff.mp h
  simp only [haltCheck_eq, State.withUnits_stopReq, State.withUnits_tx, ← htx.2.1]
  split
  · exact agree_of_commutes (F := fun s' => s'.setHalted true) (fun _ _ _ _ => rfl) rfl h
  · exact h

theorem agree_blockStep (hn : s.snd.length = s.cfg.numLoco) (h : Agree s t) : AgreeNext (blockStep s) (blockStep t) := by
  have hadv := agree_advanceAndTick hn h
  obtain ⟨a, b, c, rfl, -⟩ := agree_iff.mp h
  by_cases hh : s.halted = true
  · simpa [blockStep, hh] using AgreeNext.of_agree h
  · have hstop : (advanceAndTick (s.withUnits a b c)).stopReq = (advanceAndTick s).stopReq := by simp
    have hhandled : AgreeNext (if (advanceAndTick s).stopReq = true then .next (advanceAndTick s)
          else handlerStep (advanceAndTick s))
        (if (advanceAndTick s).stopReq = true then .next (advanceAndTick (s.withUnits a b c))
          else handlerStep (advanceAndTick (s.withUnits a b c))) := by
      split
      · exact .of_agree hadv
      · exact agree_handlerStep hadv
    simp only [blockStep, State.withUnits_halted, hh, Bool.false_eq_true, ↓reduceIte, hstop]
    exact hhandled.andThen fun _ _ hst => (agree_arbitrate hst).andThen fun _ _ hst' => .of_agree (agree_haltCheck hst')

theorem agree_clockEdge (hn : s.snd.length = s.cfg.numLoco) (h : Agree s t) :
    AgreeNext (clockEdge s) (clockEdge t) := by
  have hsample : ∀ e, Agree (s.setEnv e) (t.setEnv e) := fun e =>
    agree_of_commutes (F := fun s' => s'.setEnv e) (fun _ _ _ _ => rfl) rfl h
  obtain ⟨a, b, c, rfl, -⟩ := agree_iff.mp h
  simp only [clockEdge, State.withUnits_env]
  split
  · exact .of_agree (agree_refl _)
  · exact agree_blockStep hn (hsample _)
  · exact agree_blockStep hn h

end step

end Sys2Proof.Machine

namespace Sys2Proof.Proofs

open Sys2Proof.Machine Sys2Proof.Safety

/-- Settles O58: in a legal configuration both steps go on from the clock edge, where the states still agree. -/
theorem elementsWithoutValueAreNeverRead : Obligations.ElementsWithoutValueAreNeverRead := by
  intro s t hc h
  obtain ⟨hl, -, hn⟩ := hc
  have hlt : t.cfg.legal = true := by obtain ⟨a, b, c, rfl, -⟩ := agree_iff.mp h; exact hl
  have hf := beforeEdge_frame s
  have hedge : Agree (beforeEdge s) (beforeEdge t) :=
    agree_of_commutes beforeEdge_withUnits (by rw [hf.su]; rfl) h
  left
  simp only [step, machineStep, hl, hlt, if_true]
  exact agree_clockEdge (by rw [hf.snd, hf.cfg]; exact hn) hedge

end Sys2Proof.Proofs
end

section
/-! PROOFS. A channel moves whole words, in the order they entered (`20_memory.md` R56 to R58). -/

namespace Sys2Proof.Machine

/-- A pop undoes the push of the channel's oldest word (R54, R57). -/
theorem chanPopWord_wordBytes_append (w : Word) (ch : List Byte) : chanPopWord (wordBytes w ++ ch) = some (w, ch) :=
  chanPopWord_eq_some.mpr ⟨_, _, rfl, (bytesWord_wordBytes w).symm⟩

/-- A pop does not look at the bytes behind the oldest word (R57). -/
theorem chanPopWord_append {ch rest : List Byte} {v : Word} (h : chanPopWord ch = some (v, rest)) (tail : List Byte) :
    chanPopWord (ch ++ tail) = some (v, rest ++ tail) := by
  obtain ⟨b0, b1, rfl, rfl⟩ := chanPopWord_eq_some.mp h
  exact chanPopWord_eq_some.mpr ⟨b0, b1, rfl, rfl⟩

end Sys2Proof.Machine

namespace Sys2Proof.Proofs

open Sys2Proof.Machine

/-- Settles O24: what a push and a pop answer, by the room and by the bytes in the channel. -/
theorem channelMovesWholeWords : Obligations.ChannelMovesWholeWords := by
  refine ⟨fun cap ch w => ⟨fun hroom => ?_, fun hfull => ?_⟩, fun ch w => ?_, fun ch hshort => ?_⟩
  · exact chanPushWord_eq_some.mpr ⟨by omega, rfl⟩
  · exact chanPushWord_eq_none.mpr (by omega)
  · exact chanPopWord_wordBytes_append w ch
  · exact chanPopWord_eq_none.mpr hshort

/-- Settles O25: a push appends behind the oldest word, so the pop meets the pushed word only in an empty channel. -/
theorem channelIsFirstInFirstOut : Obligations.ChannelIsFirstInFirstOut := by
  intro ch ch' w cap hpush
  obtain ⟨-, rfl⟩ := chanPushWord_eq_some.mp hpush
  constructor
  · rintro rfl
    simpa using chanPopWord_wordBytes_append w []
  · intro v rest hpop
    exact chanPopWord_append hpop (wordBytes w)

end Sys2Proof.Proofs
end

section
/-! PROOFS. Decoding and encoding undo each other in all three formats, and the rows of the opcode table are told by mask and
match (`30_encoding.md` R70 to R90). A code is cut into its fields and put together again once per layout: `badWord` is the
layout of every word, `container` that of every container. -/

namespace Sys2Proof.Machine

/-! ### The fields of a word -/

section word

variable (w : Word) (ack : BitVec 1) (k : BitVec 2) (body : BitVec 13)

/-- Any word is its three parts assembled again (R71, R85). -/
theorem badWord_parts : badWord (typeField w) (ackBit w) (payload w) = w := by
  unfold badWord ackBit typeField payload
  simp (disch := decide) only [BitVec.extractLsb'_append_extractLsb'_eq_extractLsb']
  exact BitVec.extractLsb'_eq_self

@[simp] theorem parts_badWord :
    ackBit (badWord k ack body) = ack ∧ typeField (badWord k ack body) = k ∧ payload (badWord k ack body) = body := by
  unfold badWord ackBit typeField payload
  simp (disch := decide) only [BitVec.extractLsb'_append_eq_of_le, BitVec.extractLsb'_append_eq_of_add_le,
    Nat.reduceSub, BitVec.extractLsb'_eq_self, and_self]

/-- Put together again, the fields of a locomotive word fill its payload (R75, R76). -/
theorem locoWord_fields :
    locoWord (locoAddr w) (locoSpeed w) (locoDir w) (locoLight w) ack = badWord 1#2 ack (payload w) := by
  rw [Laws.locoWord_eq, badWord]
  unfold locoAddr locoDir locoLight locoSpeed payload
  simp (disch := decide) only [BitVec.extractLsb'_append_extractLsb'_eq_extractLsb']

/-- Put together again, the fields of an accessory word fill its payload (R75, R76). -/
theorem accWord_fields : accWord (accAddr w) (accDev w) (accCtl w) (accEn w) ack = badWord 2#2 ack (payload w) := by
  rw [Laws.accWord_eq, badWord]
  unfold accAddr accCtl accDev accEn payload
  simp (disch := decide) only [BitVec.extractLsb'_append_extractLsb'_eq_extractLsb']

/-- An acknowledgement differs from its word in the ack bit alone (R77). -/
theorem ackWord_badWord : ackWord (badWord k ack body) = badWord k 1#1 body := by
  have hbit : 0x8000#16 = badWord 0#2 (BitVec.allOnes 1) 0#13 := by decide
  rw [ackWord, hbit]
  unfold badWord
  rw [BitVec.or_append, BitVec.or_append, BitVec.or_allOnes, BitVec.or_zero, BitVec.or_zero]
  rfl

theorem ackWord_eq_badWord : ackWord w = badWord (typeField w) 1#1 (payload w) := by
  conv_lhs => rw [← badWord_parts w, ackWord_badWord]

/-- The map's mask keeps the type field (R72, R90). -/
theorem and_typeMask_eq_iff : w &&& 0x6000#16 = badWord k 0#1 0#13 ↔ typeField w = k := by
  have hrow : w &&& 0x6000#16 = badWord (typeField w) 0#1 0#13 := by
    conv_lhs => rw [← badWord_parts w]
    exact Laws.type_and_mask ..
  rw [hrow]
  constructor
  · intro h
    simpa only [parts_badWord] using congrArg typeField h
  · exact fun h => by rw [h]

end word

section locoWord

variable (addr : BitVec 7) (speed : BitVec 4) (dir light ack : BitVec 1)

theorem locoWord_eq_badWord :
    locoWord addr speed dir light ack = badWord 1#2 ack (addr ++ dir ++ light ++ speed : BitVec 13) :=
  Laws.locoWord_eq ..

@[simp] theorem ackBit_locoWord : ackBit (locoWord addr speed dir light ack) = ack := by
  simp only [locoWord_eq_badWord, parts_badWord]

@[simp] theorem typeField_locoWord : typeField (locoWord addr speed dir light ack) = 1#2 := by
  simp only [locoWord_eq_badWord, parts_badWord]

@[simp] theorem fields_locoWord :
    locoAddr (locoWord addr speed dir light ack) = addr ∧ locoDir (locoWord addr speed dir light ack) = dir
    ∧ locoLight (locoWord addr speed dir light ack) = light
    ∧ locoSpeed (locoWord addr speed dir light ack) = speed := by
  unfold locoAddr locoDir locoLight locoSpeed locoWord
  simp (disch := decide) only [BitVec.extractLsb'_append_eq_of_le, BitVec.extractLsb'_append_eq_of_add_le,
    Nat.reduceSub, BitVec.extractLsb'_eq_self, and_self]

/-- The acknowledgement of a locomotive word is its acknowledgement form, whatever bit 15 was (R77, R86). -/
theorem ackWord_locoWord :
    ackWord (locoWord addr speed dir light ack) = locoWord addr speed dir light 1#1 := by
  rw [locoWord_eq_badWord, locoWord_eq_badWord, ackWord_badWord]

end locoWord

section accWord

variable (addr : BitVec 9) (dev : BitVec 2) (ctl en ack : BitVec 1)

theorem accWord_eq_badWord :
    accWord addr dev ctl en ack = badWord 2#2 ack (addr ++ ctl ++ dev ++ en : BitVec 13) :=
  Laws.accWord_eq ..

@[simp] theorem ackBit_accWord : ackBit (accWord addr dev ctl en ack) = ack := by
  simp only [accWord_eq_badWord, parts_badWord]

@[simp] theorem typeField_accWord : typeField (accWord addr dev ctl en ack) = 2#2 := by
  simp only [accWord_eq_badWord, parts_badWord]

@[simp] theorem fields_accWord :
    accAddr (accWord addr dev ctl en ack) = addr ∧ accCtl (accWord addr dev ctl en ack) = ctl
    ∧ accDev (accWord addr dev ctl en ack) = dev ∧ accEn (accWord addr dev ctl en ack) = en := by
  unfold accAddr accCtl accDev accEn accWord
  simp (disch := decide) only [BitVec.extractLsb'_append_eq_of_le, BitVec.extractLsb'_append_eq_of_add_le,
    Nat.reduceSub, BitVec.extractLsb'_eq_self, and_self]

/-- The acknowledgement of an accessory word is its acknowledgement form, whatever bit 15 was (R77, R86). -/
theorem ackWord_accWord : ackWord (accWord addr dev ctl en ack) = accWord addr dev ctl en 1#1 := by
  rw [accWord_eq_badWord, accWord_eq_badWord, ackWord_badWord]

end accWord

/-! ### Decoding a word -/

/-- A command word decodes by its type field alone (R72, R90). -/
theorem decodeCommand_cases (w : Word) :
    (typeField w = 1#2
      ∧ decodeCommand w = .cmdLoco (ackBit w) (locoAddr w) (locoDir w) (locoLight w) (locoSpeed w))
    ∨ (typeField w = 2#2 ∧ decodeCommand w = .cmdAcc (ackBit w) (accAddr w) (accCtl w) (accDev w) (accEn w))
    ∨ (typeField w = 0#2 ∧ decodeCommand w = .cmdBad00 (ackBit w) (payload w))
    ∨ (typeField w = 3#2 ∧ decodeCommand w = .cmdBad11 (ackBit w) (payload w)) := by
  have htypes : ∀ k : BitVec 2, k = 1#2 ∨ k = 2#2 ∨ k = 0#2 ∨ k = 3#2 := by decide
  rcases htypes (typeField w) with h | h | h | h <;> simp [decodeCommand, h]

theorem decodeCommand_locoWord (ack : BitVec 1) (addr : BitVec 7) (dir light : BitVec 1) (speed : BitVec 4) :
    decodeCommand (locoWord addr speed dir light ack) = .cmdLoco ack addr dir light speed := by
  simp [decodeCommand]

theorem decodeCommand_accWord (ack : BitVec 1) (addr : BitVec 9) (ctl : BitVec 1) (dev : BitVec 2) (en : BitVec 1) :
    decodeCommand (accWord addr dev ctl en ack) = .cmdAcc ack addr ctl dev en := by
  simp [decodeCommand]

theorem decodeCommand_badWord00 (ack : BitVec 1) (body : BitVec 13) :
    decodeCommand (badWord 0#2 ack body) = .cmdBad00 ack body := by
  simp [decodeCommand]

theorem decodeCommand_badWord11 (ack : BitVec 1) (body : BitVec 13) :
    decodeCommand (badWord 3#2 ack body) = .cmdBad11 ack body := by
  simp [decodeCommand]

theorem decodeAck_locoWord (addr : BitVec 7) (dir light : BitVec 1) (speed : BitVec 4) :
    decodeAck (locoWord addr speed dir light 1#1) = .ok (.ackLoco addr dir light speed) := by
  simp [decodeAck]

theorem decodeAck_accWord (addr : BitVec 9) (ctl : BitVec 1) (dev : BitVec 2) (en : BitVec 1) :
    decodeAck (accWord addr dev ctl en 1#1) = .ok (.ackAcc addr ctl dev en) := by
  simp [decodeAck]

/-- Every command word is the encoding of what it decodes to (R85: an illegal type too). -/
theorem encode_decodeCommand (w : Word) : (decodeCommand w).format = .cmd16 ∧ encode (decodeCommand w) = .w16 w := by
  rcases decodeCommand_cases w with ⟨ht, hd⟩ | ⟨ht, hd⟩ | ⟨ht, hd⟩ | ⟨ht, hd⟩ <;> rw [hd] <;>
    refine ⟨rfl, congrArg Code.w16 ?_⟩
  · rw [locoWord_fields, ← ht, badWord_parts]
  · rw [accWord_fields, ← ht, badWord_parts]
  · rw [← ht, badWord_parts]
  · rw [← ht, badWord_parts]

/-- What an acknowledgement word that decodes is (R77). -/
theorem decodeAck_eq_ok {w : Word} {i : Instr} (h : decodeAck w = .ok i) :
    ackBit w = 1#1
    ∧ ((typeField w = 1#2 ∧ i = .ackLoco (locoAddr w) (locoDir w) (locoLight w) (locoSpeed w))
      ∨ (typeField w = 2#2 ∧ i = .ackAcc (accAddr w) (accCtl w) (accDev w) (accEn w))) := by
  unfold decodeAck at h
  have hbits : ∀ b : BitVec 1, b ≠ 0#1 → b = 1#1 := by decide
  split_ifs at h with hack h1 h2 <;> cases h
  · exact ⟨hbits _ hack, .inl ⟨h1, rfl⟩⟩
  · exact ⟨hbits _ hack, .inr ⟨h2, rfl⟩⟩

theorem encode_of_decodeAck {w : Word} {i : Instr} (h : decodeAck w = .ok i) :
    i.format = .ack16 ∧ encode i = .w16 w := by
  obtain ⟨hack, ⟨ht, rfl⟩ | ⟨ht, rfl⟩⟩ := decodeAck_eq_ok h <;> refine ⟨rfl, congrArg Code.w16 ?_⟩
  · rw [locoWord_fields, ← ht, ← hack, badWord_parts]
  · rw [accWord_fields, ← ht, ← hack, badWord_parts]

/-! ### The layout of a container -/

/-- The nine fields of R78 put together, the reserved bits first; `telegramOf` is the one with R78's fixed bits. -/
def container (r : BitVec 22) (p : BitVec 14) (s₂ : BitVec 1) (a : Byte) (s₁ : BitVec 1) (c : Byte) (s₀ : BitVec 1)
    (x : Byte) (e : BitVec 1) : Telegram :=
  r ++ p ++ s₂ ++ a ++ s₁ ++ c ++ s₀ ++ x ++ e

/-- A row's mask (R83): the fixed bits of R78, and the bits `ma` and `mc` of the address and the command byte. -/
def rowMask (ma mc : Byte) : Telegram := container (BitVec.allOnes 22) (BitVec.allOnes 14) 1#1 ma 1#1 mc 1#1 0#8 1#1

theorem telegramOf_eq_container (a c x : Byte) : telegramOf a c x = container 0#22 0x3FFF#14 0#1 a 0#1 c 0#1 x 1#1 := rfl

/-- Any container is its nine fields put together again (R78). -/
theorem container_fields (t : Telegram) :
    container (t.extractLsb' 42 22) (t.extractLsb' 28 14) (t.extractLsb' 27 1) (addrByteOf t) (t.extractLsb' 18 1)
      (cmdByteOf t) (t.extractLsb' 9 1) (checkByteOf t) (t.extractLsb' 0 1) = t := by
  unfold container addrByteOf cmdByteOf checkByteOf
  simp (disch := decide) only [BitVec.extractLsb'_append_extractLsb'_eq_extractLsb']
  exact BitVec.extractLsb'_eq_self

section container

variable (r : BitVec 22) (p : BitVec 14) (s₂ : BitVec 1) (a : Byte) (s₁ : BitVec 1) (c : Byte) (s₀ : BitVec 1) (x : Byte)
  (e : BitVec 1)

theorem fields_container :
    (container r p s₂ a s₁ c s₀ x e).extractLsb' 42 22 = r ∧ (container r p s₂ a s₁ c s₀ x e).extractLsb' 28 14 = p
    ∧ (container r p s₂ a s₁ c s₀ x e).extractLsb' 27 1 = s₂ ∧ addrByteOf (container r p s₂ a s₁ c s₀ x e) = a
    ∧ (container r p s₂ a s₁ c s₀ x e).extractLsb' 18 1 = s₁ ∧ cmdByteOf (container r p s₂ a s₁ c s₀ x e) = c
    ∧ (container r p s₂ a s₁ c s₀ x e).extractLsb' 9 1 = s₀ ∧ checkByteOf (container r p s₂ a s₁ c s₀ x e) = x
    ∧ (container r p s₂ a s₁ c s₀ x e).extractLsb' 0 1 = e := by
  unfold addrByteOf cmdByteOf checkByteOf container
  simp (disch := decide) only [BitVec.extractLsb'_append_eq_of_le, BitVec.extractLsb'_append_eq_of_add_le,
    Nat.reduceSub, BitVec.extractLsb'_eq_self, and_self]

/-- A container is given by its nine fields. -/
theorem eq_container_iff (t : Telegram) :
    t = container r p s₂ a s₁ c s₀ x e ↔
      t.extractLsb' 42 22 = r ∧ t.extractLsb' 28 14 = p ∧ t.extractLsb' 27 1 = s₂ ∧ addrByteOf t = a
      ∧ t.extractLsb' 18 1 = s₁ ∧ cmdByteOf t = c ∧ t.extractLsb' 9 1 = s₀ ∧ checkByteOf t = x
      ∧ t.extractLsb' 0 1 = e := by
  constructor
  · rintro rfl
    exact fields_container ..
  · rintro ⟨rfl, rfl, rfl, rfl, rfl, rfl, rfl, rfl, rfl⟩
    exact (container_fields t).symm

end container

/-- The fields of a telegram: R78's fixed bits and the three bytes. -/
theorem fields_telegramOf (a c x : Byte) :
    (telegramOf a c x).extractLsb' 42 22 = 0#22 ∧ (telegramOf a c x).extractLsb' 28 14 = 0x3FFF#14
    ∧ (telegramOf a c x).extractLsb' 27 1 = 0#1 ∧ addrByteOf (telegramOf a c x) = a
    ∧ (telegramOf a c x).extractLsb' 18 1 = 0#1 ∧ cmdByteOf (telegramOf a c x) = c
    ∧ (telegramOf a c x).extractLsb' 9 1 = 0#1 ∧ checkByteOf (telegramOf a c x) = x
    ∧ (telegramOf a c x).extractLsb' 0 1 = 1#1 :=
  fields_container ..

/-- A row's mask drops the checksum byte and the bits of the data bytes that the row leaves open. -/
theorem container_and_rowMask (r : BitVec 22) (p : BitVec 14) (s₂ s₁ s₀ e : BitVec 1) (a c x ma mc : Byte) :
    container r p s₂ a s₁ c s₀ x e &&& rowMask ma mc = container r p s₂ (a &&& ma) s₁ (c &&& mc) s₀ 0#8 e := by
  have hbit : ∀ b : BitVec 1, b &&& 1#1 = b := by decide
  unfold rowMask container
  iterate 8 rw [BitVec.and_append]
  rw [BitVec.and_allOnes, BitVec.and_allOnes, BitVec.and_zero, hbit, hbit, hbit, hbit]

/-- A row's mask and match (R83) hold the fixed bits of R78 and the row's bits of the two data bytes. -/
theorem and_rowMask_eq_iff (t : Telegram) (ma mc va vc : Byte) :
    t &&& rowMask ma mc = telegramOf va vc 0#8 ↔
      t = telegramOf (addrByteOf t) (cmdByteOf t) (checkByteOf t)
      ∧ addrByteOf t &&& ma = va ∧ cmdByteOf t &&& mc = vc := by
  have hand : t &&& rowMask ma mc = container .. :=
    (congrArg (· &&& rowMask ma mc) (container_fields t).symm).trans (container_and_rowMask ..)
  rw [hand, telegramOf_eq_container, telegramOf_eq_container, eq_container_iff, eq_container_iff]
  simp only [fields_container]
  tauto

/-- A mask of the high bits and its match fix the high field and nothing else. -/
theorem and_highMask_eq_iff {m n : Nat} (x : BitVec (m + n)) (v : BitVec m) :
    x &&& (BitVec.allOnes m ++ 0#n) = v ++ 0#n ↔ x.extractLsb' n m = v := by
  conv_lhs => rw [← BitVec.extractLsb'_append_extractLsb' (x := x)]
  rw [BitVec.and_append, BitVec.and_allOnes, BitVec.and_zero, BitVec.append_left_inj]

/-! ### The data bytes -/

theorem fields_locoAddrByte (addr : BitVec 7) :
    (locoAddrByte addr).extractLsb' 7 1 = 0#1 ∧ (locoAddrByte addr).extractLsb' 0 7 = addr :=
  ⟨BitVec.extractLsb'_append_eq_left, BitVec.extractLsb'_append_eq_right⟩

theorem fields_locoCmdByte (dir light : BitVec 1) (speed : BitVec 4) :
    (locoCmdByte dir light speed).extractLsb' 6 2 = 1#2 ∧ (locoCmdByte dir light speed).extractLsb' 5 1 = dir
    ∧ (locoCmdByte dir light speed).extractLsb' 4 1 = light ∧ (locoCmdByte dir light speed).extractLsb' 0 4 = speed := by
  unfold locoCmdByte
  simp (disch := decide) only [BitVec.extractLsb'_append_eq_of_le, BitVec.extractLsb'_append_eq_of_add_le,
    Nat.reduceSub, BitVec.extractLsb'_eq_self, and_self]

theorem fields_accAddrByte (addr : BitVec 9) :
    (accAddrByte addr).extractLsb' 6 2 = 2#2 ∧ (accAddrByte addr).extractLsb' 0 6 = addr.extractLsb' 0 6 :=
  ⟨BitVec.extractLsb'_append_eq_left, BitVec.extractLsb'_append_eq_right⟩

theorem fields_accCmdByte (addr : BitVec 9) (ctl : BitVec 1) (dev : BitVec 2) (en : BitVec 1) :
    (accCmdByte addr ctl dev en).extractLsb' 7 1 = 1#1
    ∧ (accCmdByte addr ctl dev en).extractLsb' 4 3 = ~~~(addr.extractLsb' 6 3)
    ∧ (accCmdByte addr ctl dev en).extractLsb' 3 1 = ctl ∧ (accCmdByte addr ctl dev en).extractLsb' 1 2 = dev
    ∧ (accCmdByte addr ctl dev en).extractLsb' 0 1 = en := by
  unfold accCmdByte
  simp (disch := decide) only [BitVec.extractLsb'_append_eq_of_le, BitVec.extractLsb'_append_eq_of_add_le,
    Nat.reduceSub, BitVec.extractLsb'_eq_self, and_self]

/-- An accessory address byte is no locomotive's: its bit 7 is 1 (R80). -/
theorem accAddrByte_bit7 (addr : BitVec 9) : (accAddrByte addr).extractLsb' 7 1 = 1#1 := by
  unfold accAddrByte
  rw [BitVec.extractLsb'_append_eq_of_le (by decide)]
  decide

section dataBytes

variable {a c : Byte}

theorem locoAddrByte_fields (h : a.extractLsb' 7 1 = 0#1) : locoAddrByte (a.extractLsb' 0 7) = a := by
  rw [locoAddrByte, ← h]
  exact BitVec.extractLsb'_append_extractLsb'

theorem locoCmdByte_fields (h : c.extractLsb' 6 2 = 1#2) :
    locoCmdByte (c.extractLsb' 5 1) (c.extractLsb' 4 1) (c.extractLsb' 0 4) = c := by
  rw [locoCmdByte, ← h]
  simp (disch := decide) only [BitVec.extractLsb'_append_extractLsb'_eq_extractLsb']
  exact BitVec.extractLsb'_eq_self

theorem accAddrByte_fields (h : a.extractLsb' 6 2 = 2#2) (hi : BitVec 3) :
    accAddrByte (hi ++ a.extractLsb' 0 6) = a := by
  have hlow : (hi ++ a.extractLsb' 0 6 : BitVec 9).extractLsb' 0 6 = a.extractLsb' 0 6 :=
    BitVec.extractLsb'_append_eq_right
  rw [accAddrByte, hlow, ← h]
  exact BitVec.extractLsb'_append_extractLsb'

theorem accCmdByte_fields (h : c.extractLsb' 7 1 = 1#1) (lo : BitVec 6) :
    accCmdByte (~~~(c.extractLsb' 4 3) ++ lo) (c.extractLsb' 3 1) (c.extractLsb' 1 2) (c.extractLsb' 0 1) = c := by
  have hhigh : (~~~(c.extractLsb' 4 3) ++ lo : BitVec 9).extractLsb' 6 3 = ~~~(c.extractLsb' 4 3) :=
    BitVec.extractLsb'_append_eq_left
  rw [accCmdByte, hhigh, BitVec.not_not, ← h]
  simp (disch := decide) only [BitVec.extractLsb'_append_extractLsb'_eq_extractLsb']
  exact BitVec.extractLsb'_eq_self

end dataBytes

/-! ### Decoding a telegram -/

theorem decodeTelegram_loco (addr : BitVec 7) (dir light : BitVec 1) (speed : BitVec 4) (x : Byte) :
    decodeTelegram (telegramOf (locoAddrByte addr) (locoCmdByte dir light speed) x)
      = .ok (.tgLoco addr dir light speed x) := by
  simp [decodeTelegram, fields_telegramOf, fields_locoAddrByte, fields_locoCmdByte]

theorem decodeTelegram_acc (addr : BitVec 9) (ctl : BitVec 1) (dev : BitVec 2) (en : BitVec 1) (x : Byte) :
    decodeTelegram (telegramOf (accAddrByte addr) (accCmdByte addr ctl dev en) x) = .ok (.tgAcc addr ctl dev en x) := by
  have haddr : addr.extractLsb' 6 3 ++ addr.extractLsb' 0 6 = addr := BitVec.extractLsb'_append_extractLsb'
  simp [decodeTelegram, fields_telegramOf, accAddrByte_bit7, fields_accAddrByte, fields_accCmdByte, haddr]

theorem encode_of_decodeTelegram {t : Telegram} {i : Instr} (h : decodeTelegram t = .ok i) :
    i.format = .tg64 ∧ encode i = .t64 t := by
  unfold decodeTelegram at h
  dsimp only at h
  split_ifs at h with hr hp hs he hl ha hi hz
  all_goals
    simp only [ne_eq, not_or, not_not] at hr hp hs he
    obtain ⟨h2, h1, h0⟩ := hs
    have ht : t = telegramOf (addrByteOf t) (cmdByteOf t) (checkByteOf t) :=
      (eq_container_iff ..).mpr ⟨hr, hp, h2, rfl, h1, rfl, h0, rfl, he⟩
    cases h
    refine ⟨rfl, congrArg Code.t64 (Eq.trans ?_ ht.symm)⟩
  · obtain ⟨haddr, hcmd⟩ := hl
    rw [locoAddrByte_fields haddr, locoCmdByte_fields hcmd]
  · obtain ⟨haddr, hcmd⟩ := ha
    rw [accAddrByte_fields haddr, accCmdByte_fields hcmd]
  · obtain ⟨haddr, hcmd, hcheck⟩ := hi
    rw [haddr, hcmd, hcheck, encodeIdle, pack]
    rfl
  · obtain ⟨haddr, hcmd, hcheck⟩ := hz
    rw [haddr, hcmd, hcheck, encodeReset, pack]
    rfl

/-! ### The rows of the telegrams -/

/-- A container under the locomotive row (R83) has the bytes of a locomotive telegram. -/
theorem exists_of_locoRow {t : Telegram} (h : t &&& 0xFFFFFFFFFC070201#64 = 0x000003FFF0010001#64) :
    ∃ addr dir light speed, addrByteOf t = locoAddrByte addr ∧ cmdByteOf t = locoCmdByte dir light speed
      ∧ t = telegramOf (addrByteOf t) (cmdByteOf t) (checkByteOf t) := by
  have hmask : 0xFFFFFFFFFC070201#64 = rowMask 0x80#8 0xC0#8 := by decide
  have hmatch : 0x000003FFF0010001#64 = telegramOf 0x00#8 0x40#8 0#8 := by decide
  rw [hmask, hmatch, and_rowMask_eq_iff] at h
  obtain ⟨ht, ha, hc⟩ := h
  have ha' := (and_highMask_eq_iff (m := 1) (n := 7) (addrByteOf t) 0#1).mp ha
  have hc' := (and_highMask_eq_iff (m := 2) (n := 6) (cmdByteOf t) 1#2).mp hc
  exact ⟨_, _, _, _, (locoAddrByte_fields ha').symm, (locoCmdByte_fields hc').symm, ht⟩

/-- A container under the accessory row (R83) has the bytes of an accessory telegram. -/
theorem exists_of_accRow {t : Telegram} (h : t &&& 0xFFFFFFFFFE060201#64 = 0x000003FFF4020001#64) :
    ∃ addr ctl dev en, addrByteOf t = accAddrByte addr ∧ cmdByteOf t = accCmdByte addr ctl dev en
      ∧ t = telegramOf (addrByteOf t) (cmdByteOf t) (checkByteOf t) := by
  have hmask : 0xFFFFFFFFFE060201#64 = rowMask 0xC0#8 0x80#8 := by decide
  have hmatch : 0x000003FFF4020001#64 = telegramOf 0x80#8 0x80#8 0#8 := by decide
  rw [hmask, hmatch, and_rowMask_eq_iff] at h
  obtain ⟨ht, ha, hc⟩ := h
  have ha' := (and_highMask_eq_iff (m := 2) (n := 6) (addrByteOf t) 2#2).mp ha
  have hc' := (and_highMask_eq_iff (m := 1) (n := 7) (cmdByteOf t) 1#1).mp hc
  exact ⟨_, _, _, _, (accAddrByte_fields ha' _).symm, (accCmdByte_fields hc' _).symm, ht⟩

/-- The locomotive row of R83, its checksum included, is the well-formed locomotive telegrams. -/
theorem wellFormed_loco_iff (t : Telegram) :
    (∃ addr dir light speed x, decodeTelegram t = .ok (.tgLoco addr dir light speed x)
        ∧ (Instr.tgLoco addr dir light speed x).wellFormed = true)
      ↔ t &&& 0xFFFFFFFFFC070201#64 = 0x000003FFF0010001#64 ∧ checkByteOf t = addrByteOf t ^^^ cmdByteOf t := by
  constructor
  · rintro ⟨addr, dir, light, speed, x, hd, hwf⟩
    obtain ⟨u, hu, hrow⟩ := Laws.TableRow.tgLoco addr dir light speed x
    obtain rfl : t = u := Code.t64.inj ((encode_of_decodeTelegram hd).2.symm.trans hu)
    cases hu
    exact ⟨hrow, by simpa [Instr.wellFormed, fields_telegramOf] using hwf⟩
  · rintro ⟨hrow, hcheck⟩
    obtain ⟨addr, dir, light, speed, ha, hc, ht⟩ := exists_of_locoRow hrow
    rw [ha, hc] at ht hcheck
    exact ⟨addr, dir, light, speed, checkByteOf t, (congrArg decodeTelegram ht).trans (decodeTelegram_loco ..),
      by simpa [Instr.wellFormed] using hcheck⟩

/-- The accessory row of R83, its checksum included, is the well-formed accessory telegrams. -/
theorem wellFormed_acc_iff (t : Telegram) :
    (∃ addr ctl dev en x, decodeTelegram t = .ok (.tgAcc addr ctl dev en x)
        ∧ (Instr.tgAcc addr ctl dev en x).wellFormed = true)
      ↔ t &&& 0xFFFFFFFFFE060201#64 = 0x000003FFF4020001#64 ∧ checkByteOf t = addrByteOf t ^^^ cmdByteOf t := by
  constructor
  · rintro ⟨addr, ctl, dev, en, x, hd, hwf⟩
    obtain ⟨u, hu, hrow⟩ := Laws.TableRow.tgAcc addr ctl dev en x
    obtain rfl : t = u := Code.t64.inj ((encode_of_decodeTelegram hd).2.symm.trans hu)
    cases hu
    exact ⟨hrow, by simpa [Instr.wellFormed, fields_telegramOf] using hwf⟩
  · rintro ⟨hrow, hcheck⟩
    obtain ⟨addr, ctl, dev, en, ha, hc, ht⟩ := exists_of_accRow hrow
    rw [ha, hc] at ht hcheck
    exact ⟨addr, ctl, dev, en, checkByteOf t, (congrArg decodeTelegram ht).trans (decodeTelegram_acc ..),
      by simpa [Instr.wellFormed] using hcheck⟩

/-- Every telegram the codec makes is under the row of any telegram, with its checksum (R82, R83). -/
theorem pack_obeys_row (a c : Byte) :
    (pack a c).1 &&& 0xFFFFFFFFF8040201#64 = 0x000003FFF0000001#64
    ∧ checkByteOf (pack a c).1 = addrByteOf (pack a c).1 ^^^ cmdByteOf (pack a c).1 := by
  have hmask : 0xFFFFFFFFF8040201#64 = rowMask 0#8 0#8 := by decide
  have hmatch : 0x000003FFF0000001#64 = telegramOf 0#8 0#8 0#8 := by decide
  rw [hmask, hmatch, and_rowMask_eq_iff]
  simp [pack, fields_telegramOf]

end Sys2Proof.Machine

namespace Sys2Proof.Proofs

open Sys2Proof.Machine

/-- Settles O1: per row of the opcode table, in the row's own format. -/
theorem decodeUndoesEncode : Obligations.DecodeUndoesEncode := by
  intro i
  cases i with
  | cmdLoco => exact congrArg Except.ok (decodeCommand_locoWord ..)
  | cmdAcc => exact congrArg Except.ok (decodeCommand_accWord ..)
  | cmdBad00 => exact congrArg Except.ok (decodeCommand_badWord00 ..)
  | cmdBad11 => exact congrArg Except.ok (decodeCommand_badWord11 ..)
  | ackLoco => exact decodeAck_locoWord ..
  | ackAcc => exact decodeAck_accWord ..
  | tgLoco => exact decodeTelegram_loco ..
  | tgAcc => exact decodeTelegram_acc ..
  | tgIdle => rfl
  | tgReset => rfl

/-- Settles O2: per format; a code of the wrong width decodes to nothing. -/
theorem encodeUndoesDecode : Obligations.EncodeUndoesDecode := by
  intro f c i h
  cases f <;> cases c
  case cmd16.w16 w =>
    cases h
    exact encode_decodeCommand w
  case ack16.w16 => exact encode_of_decodeAck h
  case tg64.t64 => exact encode_of_decodeTelegram h
  all_goals cases h

/-- Settles O4: mask and match fix the type field, and the type field alone chooses the row. -/
theorem commandMapFollowsTheTypeField : Obligations.CommandMapFollowsTheTypeField := by
  intro w
  have hloco : w &&& 0x6000#16 = 0x2000#16 ↔ _ := and_typeMask_eq_iff w 1#2
  have hacc : w &&& 0x6000#16 = 0x4000#16 ↔ _ := and_typeMask_eq_iff w 2#2
  have hbad00 : w &&& 0x6000#16 = 0x0000#16 ↔ _ := and_typeMask_eq_iff w 0#2
  have hbad11 : w &&& 0x6000#16 = 0x6000#16 ↔ _ := and_typeMask_eq_iff w 3#2
  rw [hloco, hacc, hbad00, hbad11]
  rcases decodeCommand_cases w with ⟨ht, hd⟩ | ⟨ht, hd⟩ | ⟨ht, hd⟩ | ⟨ht, hd⟩ <;> simp [ht, hd]

/-- Settles O5: a row's mask and match give the row's two data bytes, and the checksum is the third. -/
theorem telegramKindsAreTheTableRows : Obligations.TelegramKindsAreTheTableRows := by
  refine ⟨fun t => ⟨wellFormed_loco_iff t, wellFormed_acc_iff t, ⟨fun h => ?_, fun h => h ▸ rfl⟩,
    ⟨fun h => ?_, fun h => h ▸ rfl⟩⟩, pack_obeys_row⟩
  · exact (Code.t64.inj (encode_of_decodeTelegram h).2).symm
  · exact (Code.t64.inj (encode_of_decodeTelegram h).2).symm

/-- Settles O3: each word evaluated. -/
theorem sampleWordsDecode : Obligations.SampleWordsDecode :=
  ⟨rfl, rfl, rfl, rfl, rfl, rfl, rfl, rfl, rfl, rfl, rfl⟩

end Sys2Proof.Proofs
end

section
/-! PROOFS. What executing an acknowledgement word does (`30_encoding.md` R77, `44_handler.md` R197), and that bit 15 of a command
word is ignored (R86). -/

namespace Sys2Proof.Machine

/-! ### Acknowledgements -/

/-- `SendAck` with two free bytes (R197). -/
theorem sendAck_of_room {s : State} (w : Word) (h : s.ackch.length + 2 ≤ s.cfg.chanCapBytes) :
    sendAck w s = s.setAckch (s.ackch ++ wordBytes (ackWord w)) := by
  rcases sendAck_cases w s with ⟨-, hs⟩ | ⟨hfull, -⟩
  · exact hs
  · omega

/-- `SendAck` on a full channel (R197, C8). -/
theorem sendAck_of_full {s : State} (w : Word) (h : s.cfg.chanCapBytes < s.ackch.length + 2) :
    sendAck w s = raise .channelTransportError w s := by
  rcases sendAck_cases w s with ⟨hroom, -⟩ | ⟨-, hs⟩
  · omega
  · exact hs

/-- What `SendAck` leaves on the channel depends on the acknowledgement word alone (R197). -/
theorem sendAck_ackch_congr {w v : Word} (h : ackWord w = ackWord v) (s : State) :
    (sendAck w s).ackch = (sendAck v s).ackch := by
  by_cases hroom : s.ackch.length + 2 ≤ s.cfg.chanCapBytes
  · rw [sendAck_of_room w hroom, sendAck_of_room v hroom, h]
  · rw [sendAck_of_full w (by omega), sendAck_of_full v (by omega)]
    rfl

/-- An acknowledgement word is its own acknowledgement, so executing it pushes it, or loses it (R77, R197, log 6). -/
theorem next_sendAck_of_ackWord_self {w : Word} (hself : ackWord w = w) (s : State) :
    (s.ackch.length + 2 ≤ s.cfg.chanCapBytes →
      (.next (sendAck w s) : Result) = .next { s with ackch := s.ackch ++ [w.extractLsb' 0 8, w.extractLsb' 8 8] })
    ∧ (s.cfg.chanCapBytes < s.ackch.length + 2 →
      (.next (sendAck w s) : Result) = .next { s with errOut := some { kind := .channelTransportError, word := w } }) := by
  constructor
  · intro hroom
    rw [sendAck_of_room w hroom, hself]
    rfl
  · intro hfull
    rw [sendAck_of_full w hfull]
    rfl

/-- With two free bytes `SendAck` does not tell words with one acknowledgement apart (R197). -/
theorem sendAck_congr_of_room {w v : Word} {s : State} (h : ackWord w = ackWord v)
    (hroom : s.ackch.length + 2 ≤ s.cfg.chanCapBytes) : sendAck w s = sendAck v s := by
  rw [sendAck_of_room w hroom, sendAck_of_room v hroom, h]

/-! ### Bit 15 -/

/-- A field below bit 15 does not see bit 15. -/
theorem extractLsb'_xor_bit15 (w : Word) {start len : Nat} (h : start + len ≤ 15) :
    (w ^^^ 0x8000#16).extractLsb' start len = w.extractLsb' start len := by
  have hbit : 0x8000#16 = 1#1 ++ 0#15 := by decide
  have hlow : (0x8000#16).extractLsb' start len = 0#len := by
    rw [hbit, BitVec.extractLsb'_append_eq_of_add_le h, BitVec.extractLsb'_zero]
  rw [BitVec.extractLsb'_xor, hlow, BitVec.xor_zero]

/-- Both results are a next state, with equal store and acknowledgement channel (R86). -/
def SameStore (r r' : Result) : Prop :=
  ∃ t u : State, r = .next t ∧ r' = .next u ∧ t.slots = u.slots ∧ t.queue = u.queue ∧ t.ackch = u.ackch

theorem sameStore_raise (k : ErrKind) (w v : Word) (s : State) :
    SameStore (.next (raise k w s)) (.next (raise k v s)) :=
  ⟨_, _, rfl, rfl, rfl, rfl, rfl⟩

theorem sameStore_sendAck {w v : Word} (h : ackWord w = ackWord v) (s : State) :
    SameStore (.next (sendAck w s)) (.next (sendAck v s)) :=
  ⟨_, _, rfl, rfl, by simp, by simp, sendAck_ackch_congr h s⟩

theorem sameStore_execCmdLoco (ack ack' : BitVec 1) (addr : BitVec 7) (dir light : BitVec 1) (speed : BitVec 4)
    (s : State) : SameStore (execCmdLoco ack addr dir light speed s) (execCmdLoco ack' addr dir light speed s) := by
  unfold execCmdLoco
  cases lookup addr s with
  | none => exact sameStore_raise ..
  | some i => exact sameStore_sendAck (by rw [ackWord_locoWord, ackWord_locoWord]) _

theorem sameStore_execCmdAcc (ack ack' : BitVec 1) (addr : BitVec 9) (ctl : BitVec 1) (dev : BitVec 2) (en : BitVec 1)
    (s : State) : SameStore (execCmdAcc ack addr ctl dev en s) (execCmdAcc ack' addr ctl dev en s) := by
  have hack : ackWord (accWord addr dev ctl en ack) = ackWord (accWord addr dev ctl en ack') := by
    rw [ackWord_accWord, ackWord_accWord]
  unfold execCmdAcc
  obtain ⟨q, queue⟩ := qEnqueueOrUpdate s.cfg.accQDepth { addr := addr, dev := dev, ctl := ctl, en := en } s.queue
  cases q with
  | updated => exact sameStore_sendAck hack _
  | appended => exact sameStore_sendAck hack _
  | full => exact sameStore_raise ..

/-- Bit 15 reaches no operand of a command word but its ack bit (R86). -/
theorem sameStore_exec_xor_bit15 (w : Word) (s : State) :
    SameStore (exec (decodeCommand w) s) (exec (decodeCommand (w ^^^ 0x8000#16)) s) := by
  unfold decodeCommand typeField payload locoAddr locoDir locoLight locoSpeed accAddr accCtl accDev accEn
  simp (disch := decide) only [extractLsb'_xor_bit15]
  split_ifs
  · exact sameStore_execCmdLoco ..
  · exact sameStore_execCmdAcc ..
  · exact sameStore_raise ..
  · exact sameStore_raise ..

theorem ackWord_xor_bit15 (w : Word) : ackWord (w ^^^ 0x8000#16) = ackWord w := by
  rw [ackWord_eq_badWord, ackWord_eq_badWord w]
  unfold typeField payload
  simp (disch := decide) only [extractLsb'_xor_bit15]

end Sys2Proof.Machine

namespace Sys2Proof.Proofs

open Sys2Proof.Machine

/-- Settles O18: only the ack bit of the operands differs, and neither the store nor an acknowledgement sees it. -/
theorem bitFifteenIsIgnored : Obligations.BitFifteenIsIgnored := by
  intro s w
  obtain ⟨t, u, ht, hu, hslots, hqueue, hackch⟩ := sameStore_exec_xor_bit15 w s
  exact ⟨t, u, ht, hu, hslots, hqueue, hackch, (ackWord_xor_bit15 w).symm⟩

/-- Settles O16: executing an acknowledgement word is `SendAck` of a word that is its own acknowledgement. -/
theorem acknowledgementIsPushedOrLost : Obligations.AcknowledgementIsPushedOrLost := by
  refine ⟨fun s i w hi => ?_, fun s w hroom => ⟨fun ht => ?_, fun ht => ?_⟩⟩
  · obtain ⟨addr, dir, light, speed, rfl, rfl⟩ | ⟨addr, ctl, dev, en, rfl, rfl⟩ := hi
    · exact next_sendAck_of_ackWord_self (ackWord_locoWord addr speed dir light 1#1) s
    · exact next_sendAck_of_ackWord_self (ackWord_accWord addr dev ctl en 1#1) s
  · refine congrArg Host.Outcome.next (sendAck_congr_of_room ?_ hroom)
    rw [locoWord_fields, ackWord_badWord, ackWord_eq_badWord, ht]
  · refine congrArg Host.Outcome.next (sendAck_congr_of_room ?_ hroom)
    rw [accWord_fields, ackWord_badWord, ackWord_eq_badWord, ht]

end Sys2Proof.Proofs
end

section
/-! PROOFS. The fixed fields of a telegram, its count of ones, and the way of a command word to its telegram and back
(`40_codec.md` R107 to R110). -/

namespace Sys2Proof.Machine

/-- A bit of a container, read as a field one bit wide. -/
theorem getLsbD_of_extractLsb'_one {t : Telegram} {i : Nat} {b : BitVec 1} (h : t.extractLsb' i 1 = b) :
    t.getLsbD i = b.getLsbD 0 := by
  simp [← h]

end Sys2Proof.Machine

namespace Sys2Proof.Safety

open Sys2Proof.Machine

/-! ### Counting ones -/

theorem popcount_le {w : Nat} (v : BitVec w) : popcount v ≤ w :=
  List.countP_le_length.trans_eq List.length_range

theorem popcount_append {m n : Nat} (x : BitVec m) (y : BitVec n) : popcount (x ++ y) = popcount x + popcount y := by
  have hrange : List.range (m + n) = List.range n ++ (List.range m).map (n + ·) := by
    rw [Nat.add_comm, List.range_add]
  have hlow : (List.range n).countP (fun i => (x ++ y).getLsbD i) = popcount y :=
    List.countP_congr fun i hi => by simp [BitVec.getLsbD_append, List.mem_range.mp hi]
  have hhigh : (List.range m).countP ((fun i => (x ++ y).getLsbD i) ∘ (n + ·)) = popcount x :=
    List.countP_congr fun i _ => by simp [BitVec.getLsbD_append]
  rw [popcount, hrange, List.countP_append, List.countP_map, hlow, hhigh, Nat.add_comm]

/-- At each position two bits and their XOR hold no 1, or exactly two (R109). -/
theorem popcount_add_popcount_xor {w : Nat} (a c : BitVec w) :
    popcount a + popcount c + popcount (a ^^^ c) = 2 * popcount (a ||| c) := by
  unfold popcount
  induction List.range w with
  | nil => rfl
  | cons i l ih =>
    simp only [List.countP_cons, BitVec.getLsbD_xor, BitVec.getLsbD_or] at ih ⊢
    cases a.getLsbD i <;> cases c.getLsbD i <;> simp <;> omega

/-- The preamble and the stop bit hold fifteen ones, the start bits and the reserved bits none (R78). -/
theorem popcount_telegramOf (a c x : Byte) :
    popcount (telegramOf a c x) = 15 + (popcount a + popcount c + popcount x) := by
  have hreserved : popcount 0#22 = 0 := by decide
  have hpreamble : popcount 0x3FFF#14 = 14 := by decide
  have hstart : popcount 0#1 = 0 := by decide
  have hstop : popcount 1#1 = 1 := by decide
  simp only [telegramOf, popcount_append, hreserved, hpreamble, hstart, hstop]
  omega

/-- The ones of a packed telegram are all in its frame, the reserved bits being 0 (R84). -/
theorem popcount_frame_pack (a c : Byte) :
    popcount ((pack a c).1.extractLsb' 0 42) = 15 + 2 * popcount (a ||| c) := by
  obtain ⟨hreserved, -⟩ := fields_telegramOf a c (a ^^^ c)
  have hsplit : popcount (telegramOf a c (a ^^^ c))
      = popcount 0#22 + popcount ((telegramOf a c (a ^^^ c)).extractLsb' 0 42) := by
    rw [← hreserved, ← popcount_append, BitVec.extractLsb'_append_extractLsb']
  have hzero : popcount 0#22 = 0 := by decide
  rw [hzero, Nat.zero_add, popcount_telegramOf, popcount_add_popcount_xor] at hsplit
  exact hsplit.symm

end Sys2Proof.Safety

namespace Sys2Proof.Proofs

open Sys2Proof.Machine Sys2Proof.Safety

/-- Settles O6: the fields of R78, the checksum byte being the XOR that `pack` puts there. -/
theorem telegramFixedFieldsAndChecksum : Obligations.TelegramFixedFieldsAndChecksum := by
  intro a c
  obtain ⟨hreserved, hpreamble, hstart₂, -, hstart₁, -, hstart₀, -, hstop⟩ := fields_telegramOf a c (a ^^^ c)
  obtain ⟨-, hcheck⟩ := pack_obeys_row a c
  exact ⟨hpreamble, getLsbD_of_extractLsb'_one hstart₂, getLsbD_of_extractLsb'_one hstart₁,
    getLsbD_of_extractLsb'_one hstart₀, getLsbD_of_extractLsb'_one hstop, hcheck, hreserved, rfl⟩

/-- Settles O7: the bytes hold two ones per position where `A` or `C` has one, and a byte has eight positions. -/
theorem telegramOnesCount : Obligations.TelegramOnesCount := by
  intro a c
  have hbyte : popcount (a ||| c) ≤ 8 := popcount_le (a ||| c)
  rw [popcount_frame_pack]
  exact ⟨rfl, by omega, by omega, by omega, by omega⟩

/-- Settles O8: the decoder gives back the fields of any telegram an encoder makes, so those of the word too. -/
theorem commandWordToTelegramLosesNoField : Obligations.CommandWordToTelegramLosesNoField :=
  fun _ => ⟨fun _ => decodeTelegram_loco .., fun _ => decodeTelegram_acc ..⟩

end Sys2Proof.Proofs
end

section
/-! PROOFS. The transmitter (`41_transmitter.md`): one step of it, the waveform of a transmission (R127) as one stretch of a
counter after another, its duration (R128), and that nothing but a reset reaches it in flight (R130). -/

namespace Sys2Proof.Machine

open Sys2Proof.Safety

/-! ### One step (R125) -/

/-- A transmitter on the line counts down while cycles of its stretch are left. -/
theorem txNext_of_counting (c : Config) {t : Transmitter} (hs : t.state = .settle ∨ t.state = .hi ∨ t.state = .lo)
    (h : 1 < t.cnt) : txNext c t = { t with cnt := t.cnt - 1 } := by
  rcases hs with hs | hs | hs <;> simp [txNext, hs, h]

theorem txNext_of_settle_last (c : Config) {t : Transmitter} (hs : t.state = .settle) (h : t.cnt ≤ 1) :
    txNext c t = { t with state := .hi, cnt := c.half (frameBit t.frame t.idx.toNat) } := by
  simp [txNext, hs, Nat.not_lt.mpr h]

theorem txNext_of_hi_last (c : Config) {t : Transmitter} (hs : t.state = .hi) (h : t.cnt ≤ 1) :
    txNext c t = { t with state := .lo, cnt := c.half (frameBit t.frame t.idx.toNat) } := by
  simp [txNext, hs, Nat.not_lt.mpr h]

theorem txNext_of_lo_last (c : Config) {t : Transmitter} (hs : t.state = .lo) (h : t.cnt ≤ 1) (hi : t.idx ≠ 0#6) :
    txNext c t
      = { t with state := .hi, idx := t.idx - 1#6, cnt := c.half (frameBit t.frame (t.idx.toNat - 1)) } := by
  simp [txNext, hs, Nat.not_lt.mpr h, hi]

theorem txNext_of_lo_final (c : Config) {t : Transmitter} (hs : t.state = .lo) (h : t.cnt ≤ 1) (hi : t.idx = 0#6) :
    txNext c t = { t with state := .ending } := by
  simp [txNext, hs, Nat.not_lt.mpr h, hi]

/-! ### Many steps -/

theorem txAfter_add (c : Config) (t : Transmitter) (m n : Nat) :
    txAfter c t (m + n) = txAfter c (txAfter c t m) n := by
  induction n with
  | zero => rfl
  | succ n ih => exact congrArg (txNext c) ih

/-- Within a stretch only the counter moves. -/
theorem txAfter_of_counting (c : Config) {t : Transmitter} (hs : t.state = .settle ∨ t.state = .hi ∨ t.state = .lo)
    {n : Nat} (h : n < t.cnt) : txAfter c t n = { t with cnt := t.cnt - n } := by
  induction n with
  | zero => rfl
  | succ n ih =>
    rw [txAfter, ih (by omega)]
    exact txNext_of_counting c hs (Nat.lt_sub_iff_add_lt'.mpr h)

/-- A stretch lasts as many cycles as were counted in, and what follows it is the step of a transmitter at count 1. -/
theorem txAfter_cnt (c : Config) {t : Transmitter} (hs : t.state = .settle ∨ t.state = .hi ∨ t.state = .lo)
    (h : 1 ≤ t.cnt) : txAfter c t t.cnt = txNext c { t with cnt := 1 } := by
  obtain ⟨m, hm⟩ : ∃ m, t.cnt = m + 1 := ⟨t.cnt - 1, by omega⟩
  rw [hm, txAfter, txAfter_of_counting c hs (by omega), hm, Nat.add_sub_cancel_left]

/-! ### The stretches of a transmission (R127) -/

/-- The transmitter at the start of the half `st` of the bit with index `i`. -/
def atHalf (c : Config) (t : Telegram) (len : Nat) (o : Owner) (st : TxState) (i : BitVec 6) : Transmitter where
  owner := o
  state := st
  frame := t
  len := BitVec.ofNat 7 len
  idx := i
  cnt := c.half (frameBit t i.toNat)

section halves

variable {c : Config} (hc : c.legal = true) (t : Telegram) (len : Nat) (o : Owner)

include hc

theorem txAfter_settle :
    txAfter c (started c t len o) c.settle = atHalf c t len o .hi (BitVec.ofNat 6 (len - 1)) :=
  (txAfter_cnt c (.inl rfl) (legal_settle_pos hc)).trans (txNext_of_settle_last c rfl le_rfl)

theorem txAfter_hi (i : BitVec 6) :
    txAfter c (atHalf c t len o .hi i) (c.half (frameBit t i.toNat)) = atHalf c t len o .lo i :=
  (txAfter_cnt c (.inr (.inl rfl)) (legal_half_pos hc _)).trans (txNext_of_hi_last c rfl le_rfl)

theorem txAfter_lo {i : BitVec 6} (hi : i ≠ 0#6) :
    txAfter c (atHalf c t len o .lo i) (c.half (frameBit t i.toNat)) = atHalf c t len o .hi (i - 1#6) := by
  have hidx : (i - 1#6).toNat = i.toNat - 1 := by bv_omega
  unfold atHalf
  rw [hidx]
  exact (txAfter_cnt c (.inr (.inr rfl)) (legal_half_pos hc _)).trans (txNext_of_lo_last c rfl le_rfl hi)

theorem txAfter_lo_zero :
    txAfter c (atHalf c t len o .lo 0#6) (c.half (frameBit t (0#6).toNat))
      = { atHalf c t len o .ending 0#6 with cnt := 1 } :=
  (txAfter_cnt c (.inr (.inr rfl)) (legal_half_pos hc _)).trans (txNext_of_lo_final c rfl le_rfl rfl)

end halves

/-! ### The index of bit `j` -/

/-- The index from which the transmitter reads bit `j` of a transmission. -/
def lineIdx (len j : Nat) : BitVec 6 := BitVec.ofNat 6 (len - 1 - j)

theorem lineIdx_toNat {len : Nat} (j : Nat) (h : len ≤ 64) : (lineIdx len j).toNat = len - 1 - j := by
  rw [lineIdx, BitVec.toNat_ofNat]
  omega

theorem frameBit_lineIdx (t : Telegram) {len : Nat} (j : Nat) (h : len ≤ 64) :
    frameBit t (lineIdx len j).toNat = lineBit t len j := by
  rw [lineIdx_toNat j h, lineBit]

theorem lineIdx_ne_zero {len j : Nat} (h : len ≤ 64) (hj : j + 1 < len) : lineIdx len j ≠ 0#6 := by
  have hidx := lineIdx_toNat j h
  bv_omega

theorem lineIdx_succ {len j : Nat} (h : len ≤ 64) (hj : j + 1 < len) : lineIdx len (j + 1) = lineIdx len j - 1#6 := by
  have hidx := lineIdx_toNat j h
  have hidx' := lineIdx_toNat (j + 1) h
  bv_omega

@[simp] theorem lineIdx_last (len : Nat) : lineIdx len (len - 1) = 0#6 := by simp [lineIdx]

/-! ### The waveform (R127) -/

theorem bitStart_succ (c : Config) (t : Telegram) (len j : Nat) :
    bitStart c t len (j + 1) = bitStart c t len j + 2 * c.half (lineBit t len j) := by
  simp [bitStart, List.range_succ, Nat.add_assoc]

/-- From the start of a half of bit `j` on, the transmitter is in that half of that bit for the bit's half-period. -/
theorem txAfter_within_half {c : Config} {x : Transmitter} {t : Telegram} {len j b n : Nat} {o : Owner} {st : TxState}
    (hlen : len ≤ 64) (hst : st = .hi ∨ st = .lo) (hb : txAfter c x b = atHalf c t len o st (lineIdx len j)) (hle : b ≤ n)
    (hlt : n < b + c.half (lineBit t len j)) :
    (txAfter c x n).state = st ∧ (txAfter c x n).idx.toNat = len - 1 - j := by
  obtain ⟨k, rfl⟩ := Nat.exists_eq_add_of_le hle
  have hcnt : (atHalf c t len o st (lineIdx len j)).cnt = c.half (lineBit t len j) :=
    congrArg c.half (frameBit_lineIdx t j hlen)
  rw [txAfter_add, hb, txAfter_of_counting c (.inr hst) (by omega)]
  exact ⟨rfl, lineIdx_toNat j hlen⟩

section waveform

variable {c : Config} (hc : c.legal = true) (t : Telegram) {len : Nat} (hlen : len ≤ 64) (o : Owner)

include hc hlen

/-- Bit `j` starts, high, at its time. -/
theorem txAfter_bitStart {j : Nat} (hj : j < len) :
    txAfter c (started c t len o) (bitStart c t len j) = atHalf c t len o .hi (lineIdx len j) := by
  induction j with
  | zero => exact txAfter_settle hc t len o
  | succ j ih =>
    rw [bitStart_succ, ← frameBit_lineIdx t j hlen, Nat.two_mul, ← Nat.add_assoc, txAfter_add, txAfter_add,
      ih (by omega), txAfter_hi hc, txAfter_lo hc t len o (lineIdx_ne_zero hlen hj), lineIdx_succ hlen hj]

/-- Bit `j` goes low one half-period later. -/
theorem txAfter_bitStart_add_half {j : Nat} (hj : j < len) :
    txAfter c (started c t len o) (bitStart c t len j + c.half (lineBit t len j))
      = atHalf c t len o .lo (lineIdx len j) := by
  rw [txAfter_add, txAfter_bitStart hc t hlen o hj, ← frameBit_lineIdx t j hlen, txAfter_hi hc]

/-- After its last bit a transmission is at its end. -/
theorem txAfter_bitStart_len (hpos : 1 ≤ len) :
    txAfter c (started c t len o) (bitStart c t len len) = { atHalf c t len o .ending 0#6 with cnt := 1 } := by
  have hlast : bitStart c t len len = bitStart c t len (len - 1) + 2 * c.half (lineBit t len (len - 1)) := by
    rw [← bitStart_succ, Nat.sub_add_cancel hpos]
  rw [hlast, Nat.two_mul, ← Nat.add_assoc, txAfter_add, txAfter_bitStart_add_half hc t hlen o (by omega),
    ← frameBit_lineIdx t _ hlen, lineIdx_last, txAfter_lo_zero hc]

end waveform

/-! ### The duration (R128) -/

/-- Each bit keeps the line for two of its half-periods. -/
theorem sum_half_eq (c : Config) (p : Nat → Bool) (l : List Nat) :
    (l.map fun k => 2 * c.half (p k)).sum = 2 * c.h1 * l.countP p + 2 * c.h0 * (l.length - l.countP p) := by
  induction l with
  | nil => rfl
  | cons k l ih =>
    have hle : l.countP p ≤ l.length := List.countP_le_length
    rw [List.map_cons, List.sum_cons, ih, List.countP_cons, List.length_cons]
    cases p k with
    | true =>
      simp only [Config.half, if_true, Nat.add_sub_add_right]
      ring
    | false =>
      simp only [Config.half, Bool.false_eq_true, if_false, Nat.add_zero, Nat.sub_add_comm hle]
      ring

/-- The line bits of a transmission are the bits of its frame, in the other order. -/
theorem countP_lineBit (t : Telegram) (len : Nat) :
    (List.range len).countP (lineBit t len) = popcount (t.extractLsb' 0 len) := by
  have hrev : (List.range len).reverse = (List.range len).map fun j => len - 1 - j := by
    simpa [← List.range_eq_range'] using List.reverse_range' (s := 0) (n := len)
  calc (List.range len).countP (lineBit t len)
      = ((List.range len).map fun j => len - 1 - j).countP (frameBit t) := List.countP_map.symm
    _ = (List.range len).countP (frameBit t) := by rw [← hrev, List.countP_reverse]
    _ = popcount (t.extractLsb' 0 len) := List.countP_congr fun i hi => by simp [frameBit, List.mem_range.mp hi]

/-- The duration of a transmission by the ones of its frame. -/
theorem bitStart_len (c : Config) (t : Telegram) (len : Nat) :
    bitStart c t len len = c.settle + 2 * c.h1 * popcount (t.extractLsb' 0 len)
      + 2 * c.h0 * (len - popcount (t.extractLsb' 0 len)) := by
  rw [bitStart, sum_half_eq, countP_lineBit, List.length_range, Nat.add_assoc]

/-! ### A step with a transmission in flight (R130) -/

/-- A grant needs an idle line, so a running block with a transmission in flight leaves it to `TxAdvance`. -/
theorem BlockStep.tx_of_inFlight {s t : State} (h : BlockStep s t) (hrun : s.halted = false) (hi : s.tx.state ≠ .idle)
    (he : s.tx.state ≠ .ending) : t.tx = txNext s.cfg s.tx := by
  cases h with
  | halted hh => simp [hrun] at hh
  | run t u hh hc hd =>
    have ht : t.tx = txNext s.cfg s.tx := by
      rcases hc with rfl | ⟨-, w, rest, -, -, hx⟩
      · exact advanceAndTick_tx s
      · simp [hx.frame.tx]
    rcases hd with rfl | ⟨o, f, ho, -⟩
    · rw [haltCheck_tx, ht]
    · have hidle := (offered_eq_some ho).1
      rw [ht] at hidle
      exact absurd hidle (txNext_ne_idle hi he)

end Sys2Proof.Machine

namespace Sys2Proof.Proofs

open Sys2Proof.Machine Sys2Proof.Safety

/-- Settles O29: at the start of each stretch the transmitter is known, and within it only the counter moves. -/
theorem waveformIsExact : Obligations.WaveformIsExact := by
  intro c t len o hc hpos hlen
  have hend := txAfter_bitStart_len hc t hlen o hpos
  refine ⟨fun n hn => ?_, fun j n hj hle hlt => ?_, fun j n hj hle hlt => ?_, by rw [hend]; rfl, ?_⟩
  · rw [txAfter_of_counting c (.inl rfl) hn]
    rfl
  · exact txAfter_within_half hlen (.inl rfl) (txAfter_bitStart hc t hlen o hj) hle hlt
  · exact txAfter_within_half hlen (.inr rfl) (txAfter_bitStart_add_half hc t hlen o hj) hle (by omega)
  · rw [txAfter, hend, txNext_of_ending c rfl]
    exact ⟨rfl, rfl⟩

/-- Settles O30: the frame of a packed telegram holds `15 + 2 popcount(A | C)` ones, and a byte has eight positions. -/
theorem telegramDuration : Obligations.TelegramDuration := by
  intro c a b
  have hdur := bitStart_len c (pack a b).1 42
  rw [popcount_frame_pack] at hdur
  refine ⟨hdur, fun h1 h0 hs => ?_⟩
  have hbyte : popcount (a ||| b) ≤ 8 := popcount_le (a ||| b)
  rw [h1, h0, hs] at hdur
  omega

/-- Settles O32: the host's turn leaves the transmitter alone, and the block's step hands it to `TxAdvance`. -/
theorem transmissionIsNeverCutShort : Obligations.TransmissionIsNeverCutShort := by
  intro s t hn hh hi he h
  obtain ⟨hcfg, -, -, -, -, -, -, htx, hhalted, -⟩ := atEdge_frame s
  have hstep := (blockStep_of_noReset hn h).tx_of_inFlight (hhalted.trans hh) (htx ▸ hi) (htx ▸ he)
  rwa [hcfg, htx] at hstep

/-- Settles O31: `TxStart` accepts exactly the lengths from 1 to 64. -/
theorem transmitLengthIsBounded : Obligations.TransmitLengthIsBounded := by
  intro s t len
  refine ⟨fun h => ?_, fun h1 h2 => txStart_eq_next t s h1 h2⟩
  have hout : ¬(1 ≤ len ∧ len ≤ 64) := by omega
  exact if_neg hout

end Sys2Proof.Proofs
end

section
/-! PROOFS. The store of `42_command_store.md`: what a lookup finds (R140), what a slot write changes (R141, R142), and the
order in which accessory entries leave the queue (R145 to R148). -/

namespace Sys2Proof.Machine

open Sys2Proof.Safety

/-! ### Locomotive slots -/

/-- The scan stops at the first slot with the address (R140). -/
theorem lookup_eq_some_iff {addr : BitVec 7} {s : State} {i : Nat} :
    lookup addr s = some i ↔ (∃ r, s.slots[i]? = some r ∧ r.addr = addr)
      ∧ ∀ (j : Nat) (q : Slot), j < i → s.slots[j]? = some q → q.addr ≠ addr := by
  simp only [lookup_eq, List.findIdx?_eq_some_iff_getElem, List.getElem?_eq_some_iff, beq_iff_eq]
  constructor
  · rintro ⟨hi, ha, hfirst⟩
    refine ⟨⟨_, ⟨hi, rfl⟩, ha⟩, ?_⟩
    rintro j _ hj ⟨-, rfl⟩
    exact hfirst j hj
  · rintro ⟨⟨_, ⟨hi, rfl⟩, ha⟩, hfirst⟩
    exact ⟨hi, ha, fun j hj => hfirst j _ hj ⟨hj.trans hi, rfl⟩⟩

theorem lookup_eq_none_iff {addr : BitVec 7} {s : State} :
    lookup addr s = none ↔ ∀ r ∈ s.slots, r.addr ≠ addr := by
  simp [lookup_eq, List.findIdx?_eq_none_iff]

theorem slotRead_slotWrite_same (i : Nat) (speed : BitVec 4) (dir light : BitVec 1) (s : State) :
    slotRead i (slotWrite i speed dir light s) = (slotRead i s).map (slotUpdate speed dir light) := by
  simp [slotRead, slotWrite]

theorem slotRead_slotWrite_of_ne {i j : Nat} (h : j ≠ i) (speed : BitVec 4) (dir light : BitVec 1) (s : State) :
    slotRead j (slotWrite i speed dir light s) = slotRead j s := by
  simp [slotRead, slotWrite, h.symm]

/-- Of two writes to a slot only the later one is left (R141). -/
theorem slotWrite_slotWrite (i : Nat) (speed speed' : BitVec 4) (dir dir' light light' : BitVec 1) (s : State) :
    slotWrite i speed' dir' light' (slotWrite i speed dir light s) = slotWrite i speed' dir' light' s := by
  have hcomp : slotUpdate speed' dir' light' ∘ slotUpdate speed dir light = slotUpdate speed' dir' light' := rfl
  simp [slotWrite, State.setSlots, List.modify_modify_eq, hcomp]

/-! ### Accessory queue -/

/-- A key the queue does not hold is appended at the back while there is room (R146). -/
theorem qEnqueueOrUpdate_of_new_key {depth : Nat} {e : AccEntry} {q : List AccEntry}
    (hkey : ∀ a ∈ q, entryKey a ≠ entryKey e) (hroom : q.length < depth) :
    qEnqueueOrUpdate depth e q = (.appended, q ++ [e]) := by
  have hnone : qLookup e.addr e.dev q = none :=
    qLookup_eq_none.mpr fun a ha ⟨haddr, hdev⟩ => hkey a ha (Prod.ext haddr hdev)
  simp [qEnqueueOrUpdate, hnone, hroom]

/-- What each answer of `QEnqueueOrUpdate` says of the queue it leaves (R146). -/
theorem qEnqueueOrUpdate_snd (depth : Nat) (e : AccEntry) (q : List AccEntry) :
    ((qEnqueueOrUpdate depth e q).1 = .updated → (qEnqueueOrUpdate depth e q).2.map entryKey = q.map entryKey)
    ∧ ((qEnqueueOrUpdate depth e q).1 = .appended → (qEnqueueOrUpdate depth e q).2 = q ++ [e])
    ∧ ((qEnqueueOrUpdate depth e q).1 = .full → (qEnqueueOrUpdate depth e q).2 = q) := by
  rcases qEnqueueOrUpdate_cases depth e q with ⟨j, -, h⟩ | ⟨-, -, h⟩ | ⟨-, -, h⟩ <;> rw [h]
  · refine ⟨fun _ => map_modify_of_comp_eq ?_ q j, nofun, nofun⟩
    exact fun _ => rfl
  · exact ⟨nofun, fun _ => rfl, nofun⟩
  · exact ⟨nofun, nofun, fun _ => rfl⟩

/-- Three distinct keys fill an empty queue in the order of their enqueues (R148). -/
theorem qEnqueueOrUpdate_three {depth : Nat} {a b c : AccEntry} (hdepth : 3 ≤ depth)
    (hab : entryKey a ≠ entryKey b) (hac : entryKey a ≠ entryKey c) (hbc : entryKey b ≠ entryKey c) :
    (qEnqueueOrUpdate depth c (qEnqueueOrUpdate depth b (qEnqueueOrUpdate depth a []).2).2).2 = [a, b, c] := by
  have ha : qEnqueueOrUpdate depth a [] = (.appended, [a]) :=
    qEnqueueOrUpdate_of_new_key nofun (Nat.zero_lt_of_lt hdepth)
  have hb : qEnqueueOrUpdate depth b [a] = (.appended, [a, b]) :=
    qEnqueueOrUpdate_of_new_key (by simpa using hab) (Nat.lt_of_succ_lt hdepth)
  have hc : qEnqueueOrUpdate depth c [a, b] = (.appended, [a, b, c]) :=
    qEnqueueOrUpdate_of_new_key (by simpa using ⟨hac, hbc⟩) hdepth
  rw [ha, hb, hc]

end Sys2Proof.Machine

namespace Sys2Proof.Proofs

open Sys2Proof.Machine

/-- Settles O26: the scan is the library's first index with the address. -/
theorem lookupFindsTheConfiguredSlot : Obligations.LookupFindsTheConfiguredSlot :=
  fun _ _ => ⟨fun _ => lookup_eq_some_iff, lookup_eq_none_iff⟩

/-- Settles O27: one read rule for the slot written, one for every other, and a later write replaces an earlier one. -/
theorem slotWriteChangesOneSlot : Obligations.SlotWriteChangesOneSlot := by
  intro s i r speed dir light hr
  refine ⟨?_, fun j hj => slotRead_slotWrite_of_ne hj speed dir light s, slotWrite_slotWrite ..⟩
  rw [slotRead_slotWrite_same, hr]
  rfl

/-- Settles O28: a new key goes to the back, an update leaves the keys where they stand, and a dequeue takes the front. -/
theorem queueIsFirstInFirstOut : Obligations.QueueIsFirstInFirstOut := by
  refine ⟨fun depth a b c hdepth hab hac hbc => ⟨?_, rfl⟩, qEnqueueOrUpdate_snd, fun _ _ => rfl, rfl⟩
  rw [qEnqueueOrUpdate_three hdepth hab hac hbc]
  rfl

end Sys2Proof.Proofs
end

section
/-! PROOFS. The Line Arbiter (`43_scheduling.md` R169 to R172): whose turn it is, what is offered, and that its sub-step and the
execution of the telegram offered are the same grant. -/

namespace Sys2Proof.Machine

open Sys2Proof.Safety

/-! ### Whose turn it is (R172) -/

section turn

variable {s : State}

/-- The requester considered `k`-th after the one granted last (R172). -/
def turn (s : State) (k : Nat) : Nat := (s.arbLast + k) % (s.cfg.numLoco + 1)

theorem roundRobinPick_eq (s : State) :
    roundRobinPick s
      = ((List.range (s.cfg.numLoco + 1)).find? fun k => waiting s (turn s (k + 1))).map fun k => turn s (k + 1) :=
  List.find?_map

/-- Every requester has its turn (R172). -/
theorem exists_turn_eq {p : Nat} (hp : p ≤ s.cfg.numLoco) : ∃ k, k < s.cfg.numLoco + 1 ∧ turn s (k + 1) = p := by
  have hfirst : turn s 1 < s.cfg.numLoco + 1 := Nat.mod_lt _ (Nat.succ_pos _)
  have hlater : ∀ k, turn s (k + 1) = (turn s 1 + k) % (s.cfg.numLoco + 1) := fun k => by
    rw [turn, turn, Nat.mod_add_mod, Nat.add_assoc, Nat.add_comm k 1]
  by_cases hle : turn s 1 ≤ p
  · refine ⟨p - turn s 1, by omega, ?_⟩
    rw [hlater, Nat.add_sub_cancel' hle, Nat.mod_eq_of_lt (by omega)]
  · refine ⟨p + (s.cfg.numLoco + 1) - turn s 1, by omega, ?_⟩
    rw [hlater, Nat.add_sub_cancel' (by omega), Nat.add_mod_right, Nat.mod_eq_of_lt (by omega)]

theorem roundRobinPick_eq_some_iff {p : Nat} :
    roundRobinPick s = some p ↔
      ∃ k, 1 ≤ k ∧ k ≤ s.cfg.numLoco + 1 ∧ p = turn s k ∧ waiting s p = true
        ∧ ∀ m, 1 ≤ m → m < k → waiting s (turn s m) = false := by
  simp only [roundRobinPick_eq, Option.map_eq_some_iff, List.find?_range_eq_some, List.mem_range, Bool.not_eq_eq_eq_not,
    Bool.not_true]
  constructor
  · rintro ⟨k, ⟨hw, hk, hbefore⟩, rfl⟩
    refine ⟨k + 1, by omega, by omega, rfl, hw, fun m hm hmk => ?_⟩
    obtain ⟨j, rfl⟩ := Nat.exists_eq_add_of_le' hm
    exact hbefore j (by omega)
  · rintro ⟨k, hk, hkn, rfl, hw, hbefore⟩
    obtain ⟨j, rfl⟩ := Nat.exists_eq_add_of_le' hk
    exact ⟨j, ⟨hw, by omega, fun i hi => hbefore (i + 1) (by omega) (by omega)⟩, rfl⟩

theorem roundRobinPick_eq_none_iff : roundRobinPick s = none ↔ ∀ p, p ≤ s.cfg.numLoco → waiting s p = false := by
  simp only [roundRobinPick_eq, Option.map_eq_none_iff, List.find?_range_eq_none, Bool.not_eq_eq_eq_not, Bool.not_true]
  constructor
  · intro h p hp
    obtain ⟨k, hk, rfl⟩ := exists_turn_eq hp
    exact h k hk
  · exact fun h k _ => h _ (Nat.lt_succ_iff.mp (Nat.mod_lt _ (Nat.succ_pos _)))

end turn

/-! ### What is offered (R169, R171) -/

section offered

variable {s : State}

theorem offered_of_startup (hi : s.tx.state = .idle) (hs : s.stopReq = false) (hd : s.su.done = false) :
    offered s = if suWants s.su then some (.su, suFrame s.su) else none := by
  simp [offered, hi, hs, hd]

theorem offered_of_pick_sender {i : Nat} {d : Sender} (hi : s.tx.state = .idle) (hs : s.stopReq = false)
    (hd : s.su.done = true) (hp : roundRobinPick s = some i) (hlt : i < s.cfg.numLoco) (hsnd : s.snd[i]? = some d) :
    offered s = some (.loco i, d.frame) := by
  simp [offered, hi, hs, hd, hp, hlt, hsnd]

theorem offered_of_pick_drain (hi : s.tx.state = .idle) (hs : s.stopReq = false) (hd : s.su.done = true)
    (hp : roundRobinPick s = some s.cfg.numLoco) : offered s = some (.drain, s.drn.frame) := by
  simp [offered, hi, hs, hd, hp]

theorem offered_of_no_pick (hi : s.tx.state = .idle) (hs : s.stopReq = false) (hd : s.su.done = true)
    (hp : roundRobinPick s = none) : offered s = none := by
  simp [offered, hi, hs, hd, hp]

/-- Startup asks for nothing once both counts are 0 (R169). -/
theorem suWants_eq_false {u : Startup} (hr : u.resetLeft = 0#8) (hi : u.idleLeft = 0#8) : suWants u = false := by
  simp [suWants, hr, hi]

/-- A free line is offered to somebody while anybody waits (R171, R174). -/
theorem exists_offered_of_waiting {p : Nat} (hi : s.tx.state = .idle) (hs : s.stopReq = false) (hd : s.su.done = true)
    (hp : p ≤ s.cfg.numLoco) (hw : waiting s p = true) : ∃ o t, offered s = some (o, t) := by
  cases hpick : roundRobinPick s with
  | none => simp [roundRobinPick_eq_none_iff.mp hpick p hp] at hw
  | some r =>
    rcases waiting_eq_true.mp (roundRobinPick_some hpick).1 with ⟨hlt, hwr⟩ | ⟨rfl, -⟩
    · obtain ⟨d, hsnd, -⟩ := Option.map_eq_some_iff.mp hwr
      exact ⟨_, _, offered_of_pick_sender hi hs hd hpick hlt hsnd⟩
    · exact ⟨_, _, offered_of_pick_drain hi hs hd hpick⟩

end offered

/-! ### The grant (R171) -/

section grant

variable {s : State} {o : Owner} {t : Telegram}

/-- Executing the instruction a telegram decodes to is transmitting that telegram (log 4). -/
theorem exec_of_decodeTelegram {i : Instr} (h : decodeTelegram t = .ok i) (s : State) : exec i s = transmit t s := by
  obtain ⟨u, hu, hexec⟩ := exec_telegram h s
  cases hu.symm.trans (encode_of_decodeTelegram h).2
  exact hexec

/-- Executing the telegram offered grants it (log 4). -/
theorem transmit_of_offered (h : offered s = some (o, t)) :
    transmit t s = .next ((claim o s).setTx (grantedTx o t s)) := by
  simp [transmit, h, grantTo_eq]

theorem arbitrate_of_offered_none (h : offered s = none) : arbitrate s = .next s := by
  simp [arbitrate, h]

theorem arbitrate_of_decodeTelegram {i : Instr} (h : offered s = some (o, t)) (hi : decodeTelegram t = .ok i) :
    arbitrate s = exec i s := by
  simp [arbitrate, h, hi]

/-- The arbiter grants what is offered, whatever its bits (R121, R171). -/
theorem arbitrate_of_offered (h : offered s = some (o, t)) :
    arbitrate s = .next ((claim o s).setTx (grantedTx o t s)) := by
  cases hd : decodeTelegram t with
  | ok i => rw [arbitrate_of_decodeTelegram h hd, exec_of_decodeTelegram hd, transmit_of_offered h]
  | error e => simp [arbitrate, h, hd, grantTo_eq]

end grant

end Sys2Proof.Machine

namespace Sys2Proof.Proofs

open Sys2Proof.Machine Sys2Proof.Safety

/-- Settles O38: the pick searches the requesters in the order of their turns, and every requester has one. -/
theorem roundRobinPicksTheNextWaiting : Obligations.RoundRobinPicksTheNextWaiting :=
  fun _ => ⟨fun _ => roundRobinPick_eq_some_iff, roundRobinPick_eq_none_iff⟩

/-- Settles O23: the arbiter grants what is offered, and in each of the four situations nothing is. -/
theorem arbiterGrantsTheOfferedTelegram : Obligations.ArbiterGrantsTheOfferedTelegram := by
  refine ⟨fun s o t h => ⟨arbitrate_of_offered h, fun i => arbitrate_of_decodeTelegram h⟩,
    fun s => arbitrate_of_offered_none, fun s h => ?_⟩
  have hnone : offered s = none := by
    by_cases hbusy : s.tx.state ≠ .idle ∨ s.stopReq = true
    · exact offered_eq_none hbusy
    · obtain ⟨hidle, hstop⟩ : s.tx.state = .idle ∧ s.stopReq = false := by simpa using hbusy
      rcases h with h | h | ⟨hd, hr, hi⟩ | ⟨hd, hw⟩
      · exact absurd (.inl h) hbusy
      · exact absurd (.inr h) hbusy
      · rw [offered_of_startup hidle hstop hd, suWants_eq_false hr hi]
        rfl
      · exact offered_of_no_pick hidle hstop hd (roundRobinPick_eq_none_iff.mpr hw)
  exact ⟨hnone, arbitrate_of_offered_none hnone⟩

/-- Settles O19: while a Reset telegram is left the sequencer offers it, then the Idle telegram. -/
theorem startupTelegramsAreGranted : Obligations.StartupTelegramsAreGranted := by
  intro s hidle hstop hd
  have hoff := offered_of_startup hidle hstop hd
  refine ⟨fun hr => ?_, fun hr hi => ?_⟩
  · have hpos : 0 < s.su.resetLeft.toNat := by bv_omega
    rw [suWants, suFrame] at hoff
    exact transmit_of_offered (by simpa [hd, hpos] using hoff)
  · have hpos : 0 < s.su.idleLeft.toNat := by bv_omega
    rw [suWants, suFrame] at hoff
    exact transmit_of_offered (by simpa [hd, hr, hpos] using hoff)

/-- Settles O20: the sender picked offers its frame, which is the telegram executed. -/
theorem locomotiveTelegramIsGranted : Obligations.LocomotiveTelegramIsGranted := by
  intro s addr dir light speed x i d hidle hstop hd hpick hlt hsnd hframe
  have hexec : exec (.tgLoco addr dir light speed x) s = transmit d.frame s := by rw [hframe]; rfl
  obtain ⟨hi, rfl⟩ := List.getElem?_eq_some_iff.mp hsnd
  have hset := List.modify_eq_set_get (fun d : Sender => { d with state := .tx }) hi
  rw [hexec, transmit_of_offered (offered_of_pick_sender hidle hstop hd hpick hlt hsnd), claim, hset]
  rfl

/-- Settles O21: the drain, when picked, offers its frame, which is the telegram executed. -/
theorem accessoryTelegramIsGranted : Obligations.AccessoryTelegramIsGranted := by
  intro s addr ctl dev en x hidle hstop hd hpick hframe
  have hexec : exec (.tgAcc addr ctl dev en x) s = transmit s.drn.frame s := by rw [hframe]; rfl
  rw [hexec, transmit_of_offered (offered_of_pick_drain hidle hstop hd hpick)]
  rfl

end Sys2Proof.Proofs
end

section
/-! PROOFS. The clock step as a schedule (`43_scheduling.md` R160 to R178): the tick counters, a completion of the startup
sequencer, a waiting requester on its way through a step, and a step after a stop request. -/

namespace Sys2Proof.Machine

open Sys2Proof.Safety

/-! ### Ticks (R162 to R166) -/

section ticks

@[simp] theorem tickFires_zero (period : Nat) : tickFires 0 period = (true, period - 1) := rfl

theorem tickFires_fst {cnt period : Nat} : (tickFires cnt period).1 = true ↔ cnt = 0 := by
  unfold tickFires
  split <;> simp [*]

/-- The counter and the steps gone by add up to the phase and whole periods, and after the first reload the counter is below
the period (R162). -/
theorem exists_tickAfter_add (phase : Nat) {period : Nat} (hp : 1 ≤ period) (n : Nat) :
    ∃ q, tickAfter phase period n + n = phase + period * q ∧ (q = 0 ∨ tickAfter phase period n < period) := by
  induction n with
  | zero => exact ⟨0, rfl, .inl rfl⟩
  | succ n ih =>
    obtain ⟨q, hsum, hlt⟩ := ih
    rw [tickAfter, tickFires]
    split
    next h0 =>
      refine ⟨q + 1, ?_, .inr (Nat.sub_lt hp Nat.one_pos)⟩
      dsimp only
      rw [Nat.mul_succ]
      omega
    next h0 => exact ⟨q, by dsimp only; omega, hlt.imp id fun h => (Nat.sub_le _ _).trans_lt h⟩

theorem senderTick_of_fires (l : LocoCfg) (r : Slot) {d : Sender} (hs : d.state = .sleep) (ht : d.tick = 0) :
    senderTick l r d
      = { state := .wait, frame := (encodeLocomotive r.addr r.speed r.dir r.light).1, tick := l.period - 1 } := by
  simp [senderTick, hs, ht]

/-- Outside `SLEEP` a tick moves the counter only (R164). -/
theorem senderTick_of_not_sleep (l : LocoCfg) (r : Slot) {d : Sender} (hs : d.state ≠ .sleep) :
    senderTick l r d = { d with tick := (tickFires d.tick l.period).2 } := by
  simp [senderTick, hs]

theorem drainTick_of_not_sleep {s : State} (hs : s.drn.state ≠ .sleep) :
    drainTick s = s.setDrn { s.drn with tick := (tickFires s.drn.tick s.cfg.accPeriod).2 } := by
  simp [drainTick, hs]

/-- A sleeping drain's tick takes the head entry (R165). -/
theorem drainTick_of_cons {s : State} {e : AccEntry} {rest : List AccEntry} (hs : s.drn.state = .sleep)
    (ht : s.drn.tick = 0) (hq : s.queue = e :: rest) :
    drainTick s = (s.setQueue rest).setDrn
      { state := .wait, frame := (encodeAccessory e.addr e.dev e.ctl e.en).1, tick := s.cfg.accPeriod - 1 } := by
  simp [drainTick, hs, ht, hq, qDequeueFront]

/-- With an empty queue a tick moves the drain's counter only (R166). -/
theorem drainTick_of_nil {s : State} (hq : s.queue = []) :
    drainTick s = s.setDrn { s.drn with tick := (tickFires s.drn.tick s.cfg.accPeriod).2 } := by
  simp [drainTick, hq, qDequeueFront]

end ticks

/-! ### A completion (R167 to R169) -/

section complete

variable {s : State}

theorem startupCount_of_last {u : Startup} (h : u.resetLeft.toNat + u.idleLeft.toNat = 1) :
    startupCount u = { u with resetLeft := 0#8, idleLeft := 0#8 } := by
  obtain ⟨r, i, done⟩ := u
  dsimp only at h
  unfold startupCount
  dsimp only
  split
  next hr =>
    have hr1 : r - 1#8 = 0#8 := by bv_omega
    have hi0 : i = 0#8 := by bv_omega
    rw [hr1, hi0]
  next hr =>
    have hr0 : r = 0#8 := by bv_omega
    have hi1 : i - 1#8 = 0#8 := by bv_omega
    rw [hr0, hi1]

theorem startupCount_eq (u : Startup) :
    startupCount u = if u.resetLeft = 0#8 then { u with idleLeft := u.idleLeft - 1#8 }
      else { u with resetLeft := u.resetLeft - 1#8 } := by
  have hpos : 0 < u.resetLeft.toNat ↔ ¬u.resetLeft = 0#8 := by bv_omega
  simp only [startupCount, hpos, ite_not]

/-- With more than one telegram left the sequence goes on after this one (R169). -/
theorem startupCount_ne_zero {u : Startup} (h : 1 < u.resetLeft.toNat + u.idleLeft.toNat) :
    ¬((startupCount u).resetLeft = 0#8 ∧ (startupCount u).idleLeft = 0#8) := by
  rw [startupCount_eq]
  split
  next hr => exact fun ⟨_, hi⟩ => by dsimp only at hi; bv_omega
  next hr => exact fun ⟨hr', hi⟩ => by dsimp only at hr' hi; bv_omega

/-- Where every sender is configured, loading the phases reaches them all (R167). -/
theorem loadPhases_of_length {s : State} (h : s.snd.length = s.cfg.numLoco) :
    loadPhases s = (s.setSnd (s.snd.zipWith (fun d l => { d with tick := l.phase }) s.cfg.locos)).setDrn
      { s.drn with tick := s.cfg.accPhase } := by
  have hle : s.snd.length ≤ s.cfg.locos.length := h.le
  rw [loadPhases, List.drop_of_length_le hle, List.append_nil]

/-- Only the completion that ends startup loads a tick counter (R167, R168); after a stop request there is none (D33). -/
theorem complete_keeps_ticks {o : Owner} (h : o ≠ .su ∨ s.stopReq = true) :
    (complete o s).snd.map Sender.tick = s.snd.map Sender.tick ∧ (complete o s).drn.tick = s.drn.tick := by
  cases o with
  | none => exact ⟨rfl, rfl⟩
  | drain => exact ⟨rfl, rfl⟩
  | loco i =>
    exact ⟨map_modify_of_comp_eq (g := fun d : Sender => { d with state := .sleep }) (fun _ => rfl) s.snd i, rfl⟩
  | su =>
    rw [complete, startupDone_of_stopReq s (h.resolve_left fun hne => hne rfl)]
    exact ⟨rfl, rfl⟩

theorem txAdvance_keeps_ticks (h : s.tx.owner ≠ .su ∨ s.stopReq = true) :
    (txAdvance s).snd.map Sender.tick = s.snd.map Sender.tick ∧ (txAdvance s).drn.tick = s.drn.tick := by
  by_cases he : s.tx.state = .ending
  · rw [txAdvance_of_ending s he]
    exact complete_keeps_ticks (s := s.setTx _) h
  · rw [txAdvance_of_not_ending s he]
    exact ⟨rfl, rfl⟩

theorem txAdvance_done_of_stopReq (h : s.stopReq = true) : (txAdvance s).su.done = s.su.done := by
  by_cases he : s.tx.state = .ending
  · rw [txAdvance_of_ending s he]
    exact complete_done_of_stopReq _ (s.setTx _) h
  · rw [txAdvance_of_not_ending s he]
    rfl

end complete

/-- A claim changes no sender but the one granted (R171). -/
theorem claim_getElem?_of_ne {o : Owner} {i : Nat} {d : Sender} (ho : o ≠ .loco i) (hd : s.snd[i]? = some d) :
    (claim o s).snd[i]? = some d := by
  cases o with
  | none => exact hd
  | su => exact hd
  | drain => exact hd
  | loco j =>
    have hj : j ≠ i := fun h => ho (h ▸ rfl)
    simp [claim, hj, hd]

/-! ### A requester on its way through sub-steps A and B -/

section advanceAndTick

variable {s : State} {i : Nat} {d : Sender}

theorem advanceAndTick_of_not_tickEnable (h : tickEnable s = false) : advanceAndTick s = txAdvance s := by
  simp [advanceAndTick, h]

theorem advanceAndTick_of_tickEnable (h : tickEnable s = true) : advanceAndTick s = ticks (txAdvance s) := by
  simp [advanceAndTick, h]

/-- Sub-steps A and B leave startup done (R29). -/
theorem advanceAndTick_done (h : s.su.done = true) : (advanceAndTick s).su.done = true := by
  unfold advanceAndTick
  dsimp only
  split <;> simp [txAdvance_done h]

/-- `TxAdvance()` keeps a sender's frame, and its state unless its own telegram ends (R168). -/
theorem exists_txAdvance_getElem? (hd : s.snd[i]? = some d) :
    ∃ e, (txAdvance s).snd[i]? = some e ∧ e.frame = d.frame
      ∧ e.state = if s.tx.state = .ending ∧ s.tx.owner = .loco i then .sleep else d.state := by
  obtain ⟨hi, -⟩ := List.getElem?_eq_some_iff.mp hd
  have he := List.getElem?_eq_getElem ((txAdvance_snd_length s).symm ▸ hi)
  obtain ⟨d', hd', hfr, hst, -⟩ := txAdvance_getElem? he
  cases hd.symm.trans hd'
  exact ⟨_, he, hfr, hst⟩

/-- No tick changes the frame or the state of a waiting sender (R164, R173). -/
theorem exists_ticks_getElem?_of_wait (hd : s.snd[i]? = some d) (hw : d.state = .wait) :
    ∃ e, (ticks s).snd[i]? = some e ∧ e.frame = d.frame ∧ e.state = .wait := by
  obtain ⟨hi, -⟩ := List.getElem?_eq_some_iff.mp hd
  rw [ticks_snd]
  have he := List.getElem?_eq_getElem ((senderTicks_length s.cfg.locos s.slots s.snd).symm ▸ hi)
  refine ⟨_, he, ?_⟩
  obtain ⟨d', hd', h | ⟨l, r, -, -, h⟩⟩ := senderTicks_getElem?_cases he
  all_goals
    cases hd.symm.trans hd'
    rw [h]
  · exact ⟨rfl, hw⟩
  · rw [senderTick_of_not_sleep l r (by simp [hw])]
    exact ⟨rfl, hw⟩

/-- A waiting sender still waits with its frame when the handler's turn comes (R173). -/
theorem exists_advanceAndTick_getElem?_of_wait (hl : LineOk s) (hd : s.snd[i]? = some d) (hw : d.state = .wait) :
    ∃ e, (advanceAndTick s).snd[i]? = some e ∧ e.frame = d.frame ∧ e.state = .wait := by
  obtain ⟨-, hsnd, -⟩ := hl
  have hown : s.tx.owner ≠ .loco i := fun ho => by
    obtain ⟨d', hd', htx⟩ := senderIn_iff.mp ((hsnd i).mpr ho)
    cases hd.symm.trans hd'
    simp [hw] at htx
  obtain ⟨e, he, hfr, hst⟩ := exists_txAdvance_getElem? hd
  have hwe : e.state = .wait := by simpa [hown, hw] using hst
  cases hen : tickEnable s with
  | false => exact advanceAndTick_of_not_tickEnable hen ▸ ⟨e, he, hfr, hwe⟩
  | true =>
    obtain ⟨e', he', hfr', hwe'⟩ := exists_ticks_getElem?_of_wait he hwe
    exact advanceAndTick_of_tickEnable hen ▸ ⟨e', he', hfr'.trans hfr, hwe'⟩

/-- A waiting drain still waits with its frame when the handler's turn comes (R173). -/
theorem advanceAndTick_drn_of_wait (hl : LineOk s) (hw : s.drn.state = .wait) :
    (advanceAndTick s).drn.frame = s.drn.frame ∧ (advanceAndTick s).drn.state = .wait := by
  obtain ⟨-, -, hdrn, -⟩ := hl
  have hown : s.tx.owner ≠ .drain := fun ho => by simp [hdrn.mpr ho] at hw
  obtain ⟨hfr, hst, -⟩ := txAdvance_drn s
  have hwe : (txAdvance s).drn.state = .wait := by simpa [hown, hw] using hst
  cases hen : tickEnable s with
  | false => exact advanceAndTick_of_not_tickEnable hen ▸ ⟨hfr, hwe⟩
  | true =>
    rw [advanceAndTick_of_tickEnable hen]
    rcases ticks_drn_cases (txAdvance s) with ⟨-, h⟩ | ⟨hs, -⟩
    · exact h ▸ ⟨hfr, hwe⟩
    · simp [hwe] at hs

theorem waiting_advanceAndTick {p : Nat} (hl : LineOk s) (hw : waiting s p = true) :
    waiting (advanceAndTick s) p = true := by
  rw [waiting_eq_true, advanceAndTick_cfg]
  refine (waiting_eq_true.mp hw).imp (fun ⟨hp, hst⟩ => ⟨hp, ?_⟩)
    fun ⟨hp, hst⟩ => ⟨hp, (advanceAndTick_drn_of_wait hl hst).2⟩
  obtain ⟨d, hd, hwd⟩ := Option.map_eq_some_iff.mp hst
  obtain ⟨e, he, -, hwe⟩ := exists_advanceAndTick_getElem?_of_wait hl hd hwd
  rw [he, Option.map_some, hwe]

/-- A sleeping sender whose counter is 0 takes its slot's telegram (R163), since no completion has loaded the counter. -/
theorem advanceAndTick_getElem?_of_fires {l : LocoCfg} {r : Slot} (hen : tickEnable s = true) (ho : s.tx.owner ≠ .su)
    (hl : s.cfg.locos[i]? = some l) (hr : s.slots[i]? = some r) (hd : s.snd[i]? = some d) (hs : d.state = .sleep)
    (ht : d.tick = 0) :
    (advanceAndTick s).snd[i]? = some
      { state := .wait, frame := (encodeLocomotive r.addr r.speed r.dir r.light).1, tick := l.period - 1 } := by
  obtain ⟨e, he, -, hst⟩ := exists_txAdvance_getElem? hd
  have hse : e.state = .sleep := by simpa [hs] using hst
  have hte : e.tick = 0 := by
    have htick := congrArg (·[i]?) (txAdvance_keeps_ticks (.inl ho)).1
    simpa [he, hd, ht] using htick
  rw [advanceAndTick_of_tickEnable hen, ticks_snd, txAdvance_cfg, txAdvance_slots, senderTicks_getElem? hl hr he,
    senderTick_of_fires l r hse hte]

end advanceAndTick

/-! ### The step (R160) -/

/-- Who waits is told by the senders and the drain (R172). -/
theorem waiting_congr {s t : State} (hcfg : t.cfg = s.cfg) (hsnd : t.snd = s.snd) (hdrn : t.drn = s.drn) (p : Nat) :
    waiting t p = waiting s p := by
  rw [waiting, waiting, hcfg, hsnd, hdrn]

section step

variable {s t : State}

theorem blockStep_eq_of_running (hrun : s.halted = false) :
    blockStep s = andThen (if s.stopReq = true then .next (advanceAndTick s) else handlerStep (advanceAndTick s))
      afterHandler := by
  simp only [blockStep, hrun, Bool.false_eq_true, ↓reduceIte, advanceAndTick_stopReq]
  rfl

/-- A running block's step: the handler, when it has its turn, leaves the units as sub-steps A and B made them, and the arbiter
and the halt check are what is left. -/
theorem exists_afterHandler_of_running (hrun : s.halted = false) (h : blockStep s = .next t) :
    ∃ u, HandlerFrame ((advanceAndTick s).setCmdch u.cmdch) u ∧ afterHandler u = .next t := by
  rw [blockStep_eq_of_running hrun] at h
  split at h
  next => exact ⟨_, .refl _, h⟩
  next =>
    rcases handlerStep_cases (advanceAndTick s) with ⟨-, hu⟩ | ⟨w, rest, u, -, hu, -, hx⟩
    · rw [hu] at h
      exact ⟨_, .refl _, h⟩
    · rw [hu] at h
      have hch : u.cmdch = rest := hx.frame.cmdch
      exact ⟨u, hch ▸ hx.frame, h⟩

theorem afterHandler_of_offered_none (h : offered s = none) : afterHandler s = .next (haltCheck s) := by
  rw [afterHandler, arbitrate_of_offered_none h]
  rfl

theorem afterHandler_of_offered {o : Owner} {f : Telegram} (h : offered s = some (o, f)) :
    afterHandler s = .next (haltCheck ((claim o s).setTx (grantedTx o f s))) := by
  rw [afterHandler, arbitrate_of_offered h]
  rfl

/-- Arbiter and halt check leave a sender as it is, or put its telegram on the line (R171, R173). -/
theorem getElem?_of_afterHandler {i : Nat} {d : Sender} (h : afterHandler s = .next t)
    (hd : s.snd[i]? = some d) :
    t.snd[i]? = some d
    ∨ (t.snd[i]? = some { d with state := .tx } ∧ t.tx = grantedTx (.loco i) d.frame s ∧ t.arbLast = i) := by
  cases ho : offered s with
  | none =>
    cases (afterHandler_of_offered_none ho).symm.trans h
    exact .inl (by simpa using hd)
  | some p =>
    obtain ⟨o, f⟩ := p
    cases (afterHandler_of_offered ho).symm.trans h
    by_cases hi : o = .loco i
    · subst hi
      obtain ⟨-, d', hd', -, rfl⟩ := offered_getElem? ho
      cases hd.symm.trans hd'
      exact .inr ⟨by simp [claim, hd], by simp, by simp [claim]⟩
    · exact .inl (by simpa using claim_getElem?_of_ne hi hd)

/-- The same of the drain. -/
theorem drn_of_afterHandler (h : afterHandler s = .next t) :
    t.drn = s.drn
    ∨ (t.drn = { s.drn with state := .tx } ∧ t.tx = grantedTx .drain s.drn.frame s ∧ t.arbLast = s.cfg.numLoco) := by
  cases ho : offered s with
  | none =>
    cases (afterHandler_of_offered_none ho).symm.trans h
    exact .inl (haltCheck_drn s)
  | some p =>
    obtain ⟨o, f⟩ := p
    cases (afterHandler_of_offered ho).symm.trans h
    by_cases hi : o = .drain
    · subst hi
      rw [(offered_drain ho).2]
      exact .inr ⟨by simp [claim], by simp, by simp [claim]⟩
    · exact .inl (by simp [claim_drn, hi])

/-- A step after a stop request is the transmitter's alone, and the halt check (R177, R178). -/
theorem blockStep_of_stopReq (hrun : s.halted = false) (hs : s.stopReq = true) :
    blockStep s
      = .next (if (txAdvance s).tx.state = .idle then (txAdvance s).setHalted true else txAdvance s) := by
  have hen : tickEnable s = false := by simp [tickEnable, hs]
  have hstop : (txAdvance s).stopReq = true := (txAdvance_stopReq s).trans hs
  rw [blockStep_eq_of_running hrun, if_pos hs, advanceAndTick_of_not_tickEnable hen, andThen,
    afterHandler_of_offered_none (offered_eq_none (.inr hstop)), haltCheck_eq]
  simp only [hstop, true_and]

theorem blockStep_of_halted (h : s.halted = true) : blockStep s = .next s := by
  simp [blockStep, h]

/-- Without a stop request the handler has its turn between sub-steps B and D (R160). -/
theorem blockStep_of_not_stopReq (hrun : s.halted = false) (hs : s.stopReq = false) :
    blockStep s = andThen (handlerStep (advanceAndTick s)) afterHandler := by
  rw [blockStep_eq_of_running hrun, if_neg (by simp [hs])]

/-- The handler runs the instruction its oldest bytes decode to (R190, R191). -/
theorem handlerStep_of_decodeBytes {i : Instr} {rest : List Byte} (h : decodeBytes s.cmdch = .ok (i, rest)) :
    handlerStep s = exec i (s.setCmdch rest) := by
  unfold handlerStep
  cases hp : chanPopWord s.cmdch with
  | some p =>
    obtain ⟨w, ch⟩ := p
    cases (decodeBytes_of_pop hp).symm.trans h
    rfl
  | none =>
    have hlen := chanPopWord_eq_none.mp hp
    match hc : s.cmdch with
    | [] => simp [hc, decodeBytes] at h
    | [_] => simp [hc, decodeBytes] at h
    | _ :: _ :: _ => simp [hc] at hlen

theorem handlerStep_of_no_word (h : s.cmdch.length < 2) : handlerStep s = .next s := by
  simp [handlerStep, chanPopWord_eq_none.mpr h]

/-- Line ownership is the same at the clock edge (R210, R214). -/
theorem blockStep_atEdge (hn : NoReset s) (h : step s = .next t) : blockStep (atEdge s) = .next t := by
  rw [← step_of_noReset (step_cases h).1 hn, h]

theorem lineOk_atEdge (h : LineOk s) : LineOk (atEdge s) := by
  obtain ⟨hcfg, -, -, hsnd, hdrn, -, hlast, htx, -⟩ := atEdge_frame s
  simpa only [LineOk, SenderIn, hcfg, hsnd, hdrn, hlast, htx] using h

end step

end Sys2Proof.Machine

namespace Sys2Proof.Proofs

open Sys2Proof.Machine Sys2Proof.Safety

/-- Settles O34: the counter is 0 exactly when the steps beyond the phase make whole periods. -/
theorem ticksFireEveryPeriod : Obligations.TicksFireEveryPeriod := by
  intro phase period n hp
  obtain ⟨q, hsum, hlt⟩ := exists_tickAfter_add phase hp n
  rw [tickFires_fst]
  constructor
  · intro h0
    have hn : n = phase + period * q := by omega
    rw [hn]
    exact ⟨Nat.le_add_right _ _, by rw [Nat.add_sub_cancel_left, Nat.mul_mod_right]⟩
  · rintro ⟨hle, hmod⟩
    rcases hlt with rfl | hlt
    · omega
    · have hdvd : period ∣ tickAfter phase period n + (n - phase) := ⟨q, by omega⟩
      exact Nat.eq_zero_of_dvd_of_lt ((Nat.dvd_add_iff_left (Nat.dvd_of_mod_eq_zero hmod)).mpr hdvd) hlt

/-- Settles O36. -/
theorem busyUnitLosesItsTick : Obligations.BusyUnitLosesItsTick := by
  refine ⟨fun l r d hs ht => ?_, fun s hs ht => ?_⟩
  · rw [senderTick_of_not_sleep l r hs, ht]
    rfl
  · rw [drainTick_of_not_sleep hs, ht]
    rfl

/-- Settles O37: the two cases of the dequeue. -/
theorem drainTickSendsTheOldestEntry : Obligations.DrainTickSendsTheOldestEntry := by
  intro s hs ht
  refine ⟨fun e rest => drainTick_of_cons hs ht, fun hq => ?_⟩
  rw [drainTick_of_nil hq, ht]
  rfl

/-- Settles O40: the last telegram counted off leaves both counts 0, any other does not. -/
theorem startupEndLoadsThePhases : Obligations.StartupEndLoadsThePhases := by
  intro s hlen
  refine ⟨fun h1 hs => ?_, fun h1 hs => ?_, fun h1 => ?_⟩
  · rw [complete, startupDone_eq, startupCount_of_last h1, if_pos ⟨rfl, rfl, hs⟩, loadPhases_of_length]
    · rfl
    · exact hlen
  · rw [complete, startupDone_of_stopReq s hs, startupCount_of_last h1]
    rfl
  · rw [complete, startupDone_eq, if_neg fun ⟨hr, hi, _⟩ => startupCount_ne_zero h1 ⟨hr, hi⟩, startupCount_eq]
    rfl

/-- Settles O43: with a stop request neither ticks nor handler nor arbiter act, and a completion loads no counter. -/
theorem stoppedBlockOnlyFinishesItsTelegram : Obligations.StoppedBlockOnlyFinishesItsTelegram := by
  refine ⟨fun s => ⟨blockStep_of_halted, blockStep_of_stopReq⟩, fun s hl hn => ?_⟩
  rw [step_of_noReset hl hn]
  refine ⟨blockStep_of_halted, fun hrun hs => ⟨blockStep_of_stopReq hrun hs, ?_⟩⟩
  obtain ⟨-, -, -, hsnd, hdrn, hsu, -⟩ := atEdge_frame s
  rw [txAdvance_done_of_stopReq hs, ← hsnd, ← hdrn, ← hsu]
  exact ⟨rfl, txAdvance_keeps_ticks (.inr hs)⟩

/-- Settles O49: sub-steps A and B leave the command channel to the handler. -/
theorem stepRunsTheDecodedCommand : Obligations.StepRunsTheDecodedCommand := by
  intro s hl hn hrun hs
  rw [step_of_noReset hl hn, blockStep_of_not_stopReq hrun hs, ← advanceAndTick_cmdch]
  constructor
  · intro i rest h
    rw [handlerStep_of_decodeBytes h]
    rfl
  · intro h
    rw [handlerStep_of_no_word h]
    rfl

/-- Settles O35: the sender's frame is taken in sub-step B; the handler and the arbiter after it keep it. -/
theorem senderTickTakesTheSlotBeforeTheHandler : Obligations.SenderTickTakesTheSlotBeforeTheHandler := by
  intro s t i l r d hn hrun hdone hstop hl hr hd hs ht ho h
  obtain ⟨hcfg, hslots, -, hsnd, -, hsu, -, htx, hhalted, -⟩ := atEdge_frame s
  obtain ⟨u, hf, hafter⟩ := exists_afterHandler_of_running (hhalted.trans hrun) (blockStep_atEdge hn h)
  have hfire := advanceAndTick_getElem?_of_fires (s := atEdge s) (by simp [tickEnable, hsu, hdone, hstop])
    (htx ▸ ho) (hcfg ▸ hl) (hslots ▸ hr) (hsnd ▸ hd) hs ht
  rcases getElem?_of_afterHandler hafter (hf.snd ▸ hfire) with he | ⟨he, -⟩
  · exact ⟨_, he, .inl rfl, rfl, rfl⟩
  · exact ⟨_, he, .inr rfl, rfl, rfl⟩

/-- Settles O39: a waiting requester is passed by until the arbiter's sub-step, which leaves it or grants it. -/
theorem waitingSenderKeepsItsFrame : Obligations.WaitingSenderKeepsItsFrame := by
  intro s t hline hn h
  obtain ⟨hcfg, -, -, hsnd, hdrn, -⟩ := atEdge_frame s
  have hstep := blockStep_atEdge hn h
  rw [← hsnd, ← hdrn]
  cases hrun : (atEdge s).halted with
  | true =>
    cases (blockStep_of_halted hrun).symm.trans hstep
    exact ⟨fun i d hd hw => ⟨d, hd, rfl, .inl hw⟩, fun hw => ⟨rfl, .inl hw⟩⟩
  | false =>
    obtain ⟨u, hf, hafter⟩ := exists_afterHandler_of_running hrun hstep
    constructor
    · intro i d hd hw
      obtain ⟨e, he, hfr, hwe⟩ := exists_advanceAndTick_getElem?_of_wait (lineOk_atEdge hline) hd hw
      rcases getElem?_of_afterHandler hafter (hf.snd ▸ he) with ht | ⟨ht, htx, hlast⟩
      · exact ⟨_, ht, hfr, .inl hwe⟩
      · exact ⟨_, ht, hfr, .inr ⟨rfl, by rw [htx]; rfl, by rw [htx]; exact hfr, by rw [htx]; rfl, hlast⟩⟩
    · intro hw
      obtain ⟨hfr, hwe⟩ := advanceAndTick_drn_of_wait (lineOk_atEdge hline) hw
      have hu : u.drn = (advanceAndTick (atEdge s)).drn := hf.drn
      have hucfg : u.cfg = s.cfg := by simp [hf.cfg, hcfg]
      rcases drn_of_afterHandler hafter with ht | ⟨ht, htx, hlast⟩
      · rw [ht, hu]
        exact ⟨hfr, .inl hwe⟩
      · rw [ht, htx, hlast, hu, hucfg]
        exact ⟨hfr, .inr ⟨rfl, rfl, hfr, rfl, rfl⟩⟩

/-- Settles O41: the line has the one owner `tx.owner` names, and every step keeps that (O60). -/
theorem lineHasOneOwner : Obligations.LineHasOneOwner := by
  intro s t hi h
  obtain ⟨⟨-, ⟨-, hsnd, hdrn, -⟩, -⟩, -⟩ := inv_iff.mp (everyStepKeepsTheInvariants s t hi h)
  refine ⟨fun i j hti htj => ?_, fun i hti htd => ?_, fun ho => ⟨fun htd => ?_, fun i hti => ?_⟩⟩
  · simpa using ((hsnd i).mp hti).symm.trans ((hsnd j).mp htj)
  · cases ((hsnd i).mp hti).symm.trans (hdrn.mp htd)
  · cases ho.symm.trans (hdrn.mp htd)
  · cases ho.symm.trans ((hsnd i).mp hti)

/-- Settles O42: the line is free from sub-step A on, and the waiting requester makes the arbiter offer it. -/
theorem telegramsGoOutBackToBack : Obligations.TelegramsGoOutBackToBack := by
  intro s t p hi hn hstop hend hdone hp hw h
  obtain ⟨hcfg, -, -, hsnd, hdrn, hsu, -, htx, hhalted, -⟩ := atEdge_frame s
  obtain ⟨⟨-, hline, -⟩, -, -, hhalt⟩ := inv_iff.mp hi
  have hrun : (atEdge s).halted = false := by
    by_contra hh
    rw [Bool.not_eq_false, hhalted] at hh
    simp [(hhalt hh).2] at hend
  obtain ⟨u, hf, hafter⟩ := exists_afterHandler_of_running hrun (blockStep_atEdge hn h)
  have htu : u.tx = { s.tx with state := .idle, owner := .none } := by
    simp [hf.tx, htx, txNext_of_ending _ hend]
  have hcu : u.cfg = s.cfg := by simp [hf.cfg, hcfg]
  have hdu : u.su.done = true := hf.su ▸ advanceAndTick_done (hsu ▸ hdone)
  have hstopu : u.stopReq = false := by simp [hf.stopReq, hstop]
  have hwu : waiting u p = true := by
    rw [waiting_congr hf.cfg hf.snd hf.drn]
    exact waiting_advanceAndTick (lineOk_atEdge hline) ((waiting_congr hcfg hsnd hdrn p).trans hw)
  obtain ⟨o, f, ho⟩ := exists_offered_of_waiting (by rw [htu]) hstopu hdu (hcu ▸ hp) hwu
  cases (afterHandler_of_offered ho).symm.trans hafter
  simp [grantedTx, hcu]

end Sys2Proof.Proofs
end

section
/-! PROOFS. The Command Channel Handler (`44_handler.md` R190 to R200): what each kind of command word does, the three ways
in which every word ends, and the one word a step takes from the command channel. -/

namespace Sys2Proof.Machine

open Sys2Proof.Safety

variable {s : State}

/-! ### Locomotive commands (R192, R193) -/

section cmdLoco

variable {addr : BitVec 7} {i : Nat} (ack dir light : BitVec 1) (speed : BitVec 4)

theorem exec_cmdLoco_of_lookup_some (h : lookup addr s = some i) :
    exec (.cmdLoco ack addr dir light speed) s
      = .next (sendAck (locoWord addr speed dir light ack) (slotWrite i speed dir light s)) := by
  simp only [exec, execCmdLoco, h]

theorem exec_cmdLoco_of_lookup_none (h : lookup addr s = none) :
    exec (.cmdLoco ack addr dir light speed) s
      = .next (raise .unknownLocomotiveAddress (locoWord addr speed dir light ack) s) := by
  simp only [exec, execCmdLoco, h]

/-- A write to a slot that exists leaves its address, so the whole new slot is known (R141). -/
theorem slotWrite_eq_set {r : Slot} (hr : s.slots[i]? = some r) :
    slotWrite i speed dir light s
      = s.setSlots (s.slots.set i { addr := r.addr, speed := speed, dir := dir, light := light }) := by
  rw [slotWrite, List.modify_eq_set_getElem?, hr]
  rfl

/-- The command writes the first slot with its address and sends the acknowledgement, lost or not (R192). -/
theorem exec_cmdLoco_of_first_slot {r : Slot} (hr : s.slots[i]? = some r) (haddr : r.addr = addr)
    (hfirst : ∀ (j : Nat) (q : Slot), j < i → s.slots[j]? = some q → q.addr ≠ addr) :
    exec (.cmdLoco ack addr dir light speed) s
      = .next (sendAck (locoWord addr speed dir light ack)
          (s.setSlots (s.slots.set i { addr := addr, speed := speed, dir := dir, light := light }))) := by
  rw [exec_cmdLoco_of_lookup_some ack dir light speed (lookup_eq_some_iff.mpr ⟨⟨r, hr, haddr⟩, hfirst⟩),
    slotWrite_eq_set dir light speed hr, haddr]

end cmdLoco

/-! ### Accessory commands (R195, R196) -/

/-- The entry found is the first with the key (R145). -/
theorem qLookup_eq_some_iff {addr : BitVec 9} {dev : BitVec 2} {q : List AccEntry} {j : Nat} :
    qLookup addr dev q = some j ↔ (∃ e, q[j]? = some e ∧ e.addr = addr ∧ e.dev = dev)
      ∧ ∀ (k : Nat) (f : AccEntry), k < j → q[k]? = some f → ¬(f.addr = addr ∧ f.dev = dev) := by
  simp only [qLookup, List.findIdx?_eq_some_iff_getElem, List.getElem?_eq_some_iff, AccEntry.hasKey, Bool.and_eq_true,
    beq_iff_eq]
  constructor
  · rintro ⟨hj, hkey, hfirst⟩
    refine ⟨⟨_, ⟨hj, rfl⟩, hkey⟩, ?_⟩
    rintro k _ hk ⟨-, rfl⟩
    exact hfirst k hk
  · rintro ⟨⟨_, ⟨hj, rfl⟩, hkey⟩, hfirst⟩
    exact ⟨hj, hkey, fun k hk => hfirst k _ hk ⟨hk.trans hj, rfl⟩⟩

/-- The first entry with the key of `e` becomes `e` where it stands, whatever the room (R146). -/
theorem qEnqueueOrUpdate_of_first {depth j : Nat} {e f : AccEntry} {q : List AccEntry} (hf : q[j]? = some f)
    (haddr : f.addr = e.addr) (hdev : f.dev = e.dev)
    (hfirst : ∀ (k : Nat) (g : AccEntry), k < j → q[k]? = some g → ¬(g.addr = e.addr ∧ g.dev = e.dev)) :
    qEnqueueOrUpdate depth e q = (.updated, q.set j e) := by
  have hsome : qLookup e.addr e.dev q = some j := qLookup_eq_some_iff.mpr ⟨⟨f, hf, haddr, hdev⟩, hfirst⟩
  simp [qEnqueueOrUpdate, hsome, List.modify_eq_set_getElem?, hf, haddr, hdev]

/-- A key the queue does not hold finds no place in a full queue (R146). -/
theorem qEnqueueOrUpdate_of_full {depth : Nat} {e : AccEntry} {q : List AccEntry}
    (hkey : ∀ f ∈ q, ¬(f.addr = e.addr ∧ f.dev = e.dev)) (hfull : depth ≤ q.length) :
    qEnqueueOrUpdate depth e q = (.full, q) := by
  simp [qEnqueueOrUpdate, qLookup_eq_none.mpr hkey, Nat.not_lt.mpr hfull]

section cmdAcc

variable {addr : BitVec 9} {ctl : BitVec 1} {dev : BitVec 2} {en : BitVec 1} (ack : BitVec 1)

theorem exec_cmdAcc_of_stored {a : QResult} {q : List AccEntry} (ha : a ≠ .full)
    (h : qEnqueueOrUpdate s.cfg.accQDepth { addr := addr, dev := dev, ctl := ctl, en := en } s.queue = (a, q)) :
    exec (.cmdAcc ack addr ctl dev en) s = .next (sendAck (accWord addr dev ctl en ack) (s.setQueue q)) := by
  simp only [exec, execCmdAcc, h]
  cases a with
  | updated => rfl
  | appended => rfl
  | full => exact absurd rfl ha

theorem exec_cmdAcc_of_full {q : List AccEntry}
    (h : qEnqueueOrUpdate s.cfg.accQDepth { addr := addr, dev := dev, ctl := ctl, en := en } s.queue = (.full, q)) :
    exec (.cmdAcc ack addr ctl dev en) s = .next (raise .accessoryQueueFull (accWord addr dev ctl en ack) s) := by
  simp only [exec, execCmdAcc, h]

/-- The command replaces the first entry with its key and sends the acknowledgement, lost or not (R195). -/
theorem exec_cmdAcc_of_first_entry {j : Nat} {e : AccEntry} (he : s.queue[j]? = some e) (haddr : e.addr = addr)
    (hdev : e.dev = dev)
    (hfirst : ∀ (k : Nat) (f : AccEntry), k < j → s.queue[k]? = some f → ¬(f.addr = addr ∧ f.dev = dev)) :
    exec (.cmdAcc ack addr ctl dev en) s
      = .next (sendAck (accWord addr dev ctl en ack)
          (s.setQueue (s.queue.set j { addr := addr, dev := dev, ctl := ctl, en := en }))) :=
  exec_cmdAcc_of_stored ack (by decide) (qEnqueueOrUpdate_of_first he haddr hdev hfirst)

/-- The command appends an entry with a new key and sends the acknowledgement, lost or not (R195). -/
theorem exec_cmdAcc_of_new_key (hkey : ∀ f ∈ s.queue, ¬(f.addr = addr ∧ f.dev = dev))
    (hroom : s.queue.length < s.cfg.accQDepth) :
    exec (.cmdAcc ack addr ctl dev en) s
      = .next (sendAck (accWord addr dev ctl en ack)
          (s.setQueue (s.queue ++ [{ addr := addr, dev := dev, ctl := ctl, en := en }]))) :=
  exec_cmdAcc_of_stored ack (by decide) <|
    qEnqueueOrUpdate_of_new_key (fun f hf h => hkey f hf (Prod.mk.inj h)) hroom

end cmdAcc

/-! ### How a command word ends (R198) -/

/-- The word `w` run in `s` ends in `t`: acknowledged, acknowledgement lost, or rejected with nothing stored (R198). -/
def EndsIn (w : Word) (s t : State) : Prop :=
  t = { s with slots := t.slots, queue := t.queue, ackch := t.ackch, errOut := t.errOut }
  ∧ ((t.ackch = s.ackch ++ wordBytes (ackWord w) ∧ t.errOut = s.errOut)
    ∨ (t.ackch = s.ackch ∧ t.errOut = some { kind := .channelTransportError, word := w })
    ∨ ∃ k : ErrKind, (k = .unknownMessageType ∨ k = .unknownLocomotiveAddress ∨ k = .accessoryQueueFull)
        ∧ t = { s with errOut := some { kind := k, word := w } })

theorem endsIn_raise {k : ErrKind} (w : Word) (s : State)
    (hk : k = .unknownMessageType ∨ k = .unknownLocomotiveAddress ∨ k = .accessoryQueueFull) :
    EndsIn w s (raise k w s) :=
  ⟨rfl, .inr (.inr ⟨k, hk, rfl⟩)⟩

/-- Whatever was stored, the acknowledgement is pushed or lost (R197). -/
theorem endsIn_sendAck (w : Word) (s : State) (slots : List Slot) (queue : List AccEntry) :
    EndsIn w s (sendAck w { s with slots := slots, queue := queue }) := by
  rcases sendAck_cases w { s with slots := slots, queue := queue } with ⟨-, h⟩ | ⟨-, h⟩ <;> rw [h]
  · exact ⟨rfl, .inl ⟨rfl, rfl⟩⟩
  · exact ⟨rfl, .inr (.inl ⟨rfl, rfl⟩)⟩

theorem exec_cmdLoco_endsIn (ack : BitVec 1) (addr : BitVec 7) (dir light : BitVec 1) (speed : BitVec 4) (s : State) :
    ∃ t, exec (.cmdLoco ack addr dir light speed) s = .next t ∧ EndsIn (locoWord addr speed dir light ack) s t := by
  cases h : lookup addr s with
  | none => exact ⟨_, exec_cmdLoco_of_lookup_none ack dir light speed h, endsIn_raise _ s (.inr (.inl rfl))⟩
  | some i => exact ⟨_, exec_cmdLoco_of_lookup_some ack dir light speed h, endsIn_sendAck _ s _ s.queue⟩

theorem exec_cmdAcc_endsIn (ack : BitVec 1) (addr : BitVec 9) (ctl : BitVec 1) (dev : BitVec 2) (en : BitVec 1)
    (s : State) :
    ∃ t, exec (.cmdAcc ack addr ctl dev en) s = .next t ∧ EndsIn (accWord addr dev ctl en ack) s t := by
  rcases qEnqueueOrUpdate_cases s.cfg.accQDepth { addr := addr, dev := dev, ctl := ctl, en := en } s.queue with
    ⟨j, -, h⟩ | ⟨-, -, h⟩ | ⟨-, -, h⟩
  · exact ⟨_, exec_cmdAcc_of_stored ack (by decide) h, endsIn_sendAck _ s s.slots _⟩
  · exact ⟨_, exec_cmdAcc_of_stored ack (by decide) h, endsIn_sendAck _ s s.slots _⟩
  · exact ⟨_, exec_cmdAcc_of_full ack h, endsIn_raise _ s (.inr (.inr rfl))⟩

/-- An instruction of the command format ends in one of the three ways, with its own word in the error (R198, R232). -/
theorem exec_endsIn (s : State) : ∀ (i : Instr) (w : Word), i.format = .cmd16 → encode i = .w16 w →
    ∃ t, exec i s = .next t ∧ EndsIn w s t
  | .cmdLoco .., _, rfl, rfl => exec_cmdLoco_endsIn ..
  | .cmdAcc .., _, rfl, rfl => exec_cmdAcc_endsIn ..
  | .cmdBad00 .., _, rfl, rfl => ⟨_, rfl, endsIn_raise _ s (.inl rfl)⟩
  | .cmdBad11 .., _, rfl, rfl => ⟨_, rfl, endsIn_raise _ s (.inl rfl)⟩

/-! ### The word a step takes (R190, R200) -/

/-- Sub-step C takes the two oldest bytes, where there are two (R57, R190). -/
theorem exists_handlerStep_cmdch (s : State) :
    ∃ u, handlerStep s = .next u ∧ u.cmdch = if 2 ≤ s.cmdch.length then s.cmdch.drop 2 else s.cmdch := by
  rcases handlerStep_cases s with ⟨hpop, hs⟩ | ⟨w, rest, u, hpop, hs, -, hx⟩
  · refine ⟨s, hs, ?_⟩
    rw [if_neg (Nat.not_le.mpr (chanPopWord_eq_none.mp hpop))]
  · refine ⟨u, hs, ?_⟩
    obtain ⟨b0, b1, hch, -⟩ := chanPopWord_eq_some.mp hpop
    rw [hx.frame.cmdch, hch]
    simp

/-- The arbiter and the halt check do not touch the command channel. -/
theorem cmdch_of_afterHandler {t : State} (h : afterHandler s = .next t) : t.cmdch = s.cmdch := by
  cases ho : offered s with
  | none =>
    cases (afterHandler_of_offered_none ho).symm.trans h
    exact haltCheck_cmdch s
  | some p =>
    cases (afterHandler_of_offered ho).symm.trans h
    simp

end Sys2Proof.Machine

namespace Sys2Proof.Proofs

open Sys2Proof.Machine Sys2Proof.Safety

/-- Settles O9: the command's store change, then `SendAck` with two free bytes. -/
theorem locoCommandWritesSlotAndAcknowledges : Obligations.LocoCommandWritesSlotAndAcknowledges := by
  intro s ack addr dir light speed i r hr haddr hfirst hroom
  rw [exec_cmdLoco_of_first_slot ack dir light speed hr haddr hfirst]
  exact congrArg Host.Outcome.next (sendAck_of_room _ hroom)

/-- Settles O10: the lookup finds nothing. -/
theorem locoCommandUnknownAddress : Obligations.LocoCommandUnknownAddress :=
  fun _ ack _ dir light speed h => exec_cmdLoco_of_lookup_none ack dir light speed (lookup_eq_none_iff.mpr h)

/-- Settles O11: the command's store change, then `SendAck` with two free bytes. -/
theorem accCommandUpdatesInPlace : Obligations.AccCommandUpdatesInPlace := by
  intro s ack addr ctl dev en j e he haddr hdev hfirst hroom
  rw [exec_cmdAcc_of_first_entry ack he haddr hdev hfirst]
  exact congrArg Host.Outcome.next (sendAck_of_room _ hroom)

/-- Settles O12: the command's store change, then `SendAck` with two free bytes. -/
theorem accCommandAppends : Obligations.AccCommandAppends := by
  intro s ack addr ctl dev en hkey hdepth hroom
  rw [exec_cmdAcc_of_new_key ack hkey hdepth]
  exact congrArg Host.Outcome.next (sendAck_of_room _ hroom)

/-- Settles O13: the queue answers that it is full. -/
theorem accCommandQueueFull : Obligations.AccCommandQueueFull :=
  fun _ ack _ _ _ _ hkey hfull => exec_cmdAcc_of_full ack (qEnqueueOrUpdate_of_full hkey hfull)

/-- Settles O14: both arms only raise, and the word they name is the whole word. -/
theorem badTypeRaisesUnknownMessageType : Obligations.BadTypeRaisesUnknownMessageType :=
  fun _ _ _ => ⟨rfl, rfl⟩

/-- Settles O15: the same three store changes, then `SendAck` on a full channel. -/
theorem lostAcknowledgementKeepsTheUpdate : Obligations.LostAcknowledgementKeepsTheUpdate := by
  intro s hfull
  refine ⟨fun ack addr dir light speed i r hr haddr hfirst => ?_,
    fun ack addr ctl dev en j e he haddr hdev hfirst => ?_, fun ack addr ctl dev en hkey hdepth => ?_⟩
  · rw [exec_cmdLoco_of_first_slot ack dir light speed hr haddr hfirst]
    exact congrArg Host.Outcome.next (sendAck_of_full _ hfull)
  · rw [exec_cmdAcc_of_first_entry ack he haddr hdev hfirst]
    exact congrArg Host.Outcome.next (sendAck_of_full _ hfull)
  · rw [exec_cmdAcc_of_new_key ack hkey hdepth]
    exact congrArg Host.Outcome.next (sendAck_of_full _ hfull)

/-- Settles O17: every word decodes to a command that encodes to it. -/
theorem everyWordHasOneOfThreeOutcomes : Obligations.EveryWordHasOneOfThreeOutcomes := by
  intro s w
  obtain ⟨hformat, hencode⟩ := encode_decodeCommand w
  exact exec_endsIn s (decodeCommand w) w hformat hencode

/-- Settles O50: of the sub-steps only the handler touches the command channel. -/
theorem handlerTakesOneWordAStep : Obligations.HandlerTakesOneWordAStep := by
  intro s t hn hrun hs h
  obtain ⟨u, hu, hcmdch⟩ := exists_handlerStep_cmdch (advanceAndTick (atEdge s))
  have hstep := blockStep_atEdge hn h
  rw [blockStep_of_not_stopReq hrun hs, hu] at hstep
  rw [cmdch_of_afterHandler hstep, hcmdch, advanceAndTick_cmdch]

end Sys2Proof.Proofs
end

section
/-! PROOFS. The host's side (`45_host.md`): what a write, a read and a stop do (R211 to R213), which words acknowledge which (R216),
and what the start of a delivery and the end of an attempt do (R215, R217 to R219). -/

namespace Sys2Proof.Machine

/-! ### Writes and reads (R211, R212) -/

section hostActions

variable {s : State} (w : Word)

theorem hostWrite_of_halted (hh : s.halted = true) :
    hostWrite w s = (.failed { kind := .channelTransportError, word := w }, s) :=
  if_pos hh

theorem hostWrite_of_room (hrun : s.halted = false) (hroom : s.cmdch.length + 2 ≤ s.cfg.chanCapBytes) :
    hostWrite w s = (.ok, s.setCmdch (s.cmdch ++ wordBytes w)) := by
  have hpush : chanPushWord s.cfg.chanCapBytes s.cmdch w = some (s.cmdch ++ wordBytes w) :=
    chanPushWord_eq_some.mpr ⟨hroom, rfl⟩
  simp [hostWrite, hrun, hpush]

theorem hostWrite_of_full (hrun : s.halted = false) (hfull : s.cfg.chanCapBytes < s.cmdch.length + 2) :
    hostWrite w s = (.failed { kind := .channelTransportError, word := w }, s) := by
  have hpush : chanPushWord s.cfg.chanCapBytes s.cmdch w = none := chanPushWord_eq_none.mpr hfull
  simp [hostWrite, hrun, hpush]

theorem hostRead_of_halted (hh : s.halted = true) : hostRead s = (.noData, s) :=
  if_pos hh

variable {w} in
theorem hostRead_of_word {rest : List Byte} (hrun : s.halted = false) (hch : s.ackch = wordBytes w ++ rest) :
    hostRead s = (.word w, s.setAckch rest) := by
  have hpop : chanPopWord s.ackch = some (w, rest) := by rw [hch, chanPopWord_wordBytes_append]
  simp [hostRead, hrun, hpop]

theorem hostRead_of_short (hrun : s.halted = false) (hshort : s.ackch.length < 2) : hostRead s = (.noData, s) := by
  have hpop : chanPopWord s.ackch = none := chanPopWord_eq_none.mpr hshort
  simp [hostRead, hrun, hpop]

@[simp] theorem hostRead_cfg : (hostRead s).2.cfg = s.cfg := by
  obtain h | ⟨_, _, -, h⟩ := hostRead_cases s <;> rw [h]
  rfl

end hostActions

/-! ### Matching an acknowledgement (R216) -/

section ackMatches

variable (r w : Word)

/-- A word is its ack bit on top of the low 15 bits that `AckMatches` compares (R71, R216). -/
theorem ackBit_append_extractLsb' : ackBit w ++ w.extractLsb' 0 15 = w := by
  unfold ackBit
  rw [BitVec.extractLsb'_append_extractLsb'_eq_extractLsb' (by decide)]
  exact BitVec.extractLsb'_eq_self

/-- The acknowledgement word keeps the low 15 bits (R77). -/
theorem ackWord_eq_append : ackWord w = 1#1 ++ w.extractLsb' 0 15 := by
  have hbit : 0x8000#16 = BitVec.allOnes 1 ++ 0#15 := by decide
  conv_lhs => rw [ackWord, hbit, ← ackBit_append_extractLsb' w]
  rw [BitVec.or_append, BitVec.or_allOnes, BitVec.or_zero]
  rfl

theorem ackMatches_iff : ackMatches r w = true ↔ r = ackWord w := by
  simp only [ackMatches, Bool.and_eq_true, beq_iff_eq]
  rw [ackWord_eq_append]
  constructor
  · rintro ⟨hlow, hbit⟩
    rw [← ackBit_append_extractLsb' r, hbit, hlow]
  · rintro rfl
    unfold ackBit
    simp (disch := decide) only [BitVec.extractLsb'_append_eq_of_le, BitVec.extractLsb'_append_eq_of_add_le,
      Nat.reduceSub, BitVec.extractLsb'_eq_self, and_self]

end ackMatches

/-! ### A delivery (R215, R217 to R219) -/

section delivery

variable {s : State} {c : Client}

theorem runProg_send_of_none {attempts : Option (BitVec 16)} (w : Word) (os : List Nat) (p : List HostOp)
    (h : (attempts.getD s.cfg.defaultAttempts).toNat = 0) :
    runProg (.send w attempts os :: p) s = runProg p (reply (.failed { kind := .deliveryTimeout, word := w }) s) := by
  simp only [runProg, h]

theorem runProg_send_of_succ {attempts : Option (BitVec 16)} {n : Nat} (w : Word) (os : List Nat) (p : List HostOp)
    (h : (attempts.getD s.cfg.defaultAttempts).toNat = n + 1) :
    runProg (.send w attempts os :: p) s =
      (startAttempt w n os s).setEnv { (startAttempt w n os s).env with prog := p } := by
  simp only [runProg, h]

theorem finishAttempt_of_match (h : acknowledges (hostRead s).1 c.word = true) :
    finishAttempt c s = finishClient (.delivered c.word) (hostRead s).2 :=
  if_pos h

theorem finishAttempt_of_last (h : acknowledges (hostRead s).1 c.word = false) (hleft : c.left = 0) :
    finishAttempt c s = finishClient (.failed { kind := .deliveryTimeout, word := c.word }) (hostRead s).2 := by
  simp [finishAttempt, h, hleft]

theorem finishAttempt_of_succ {n : Nat} (h : acknowledges (hostRead s).1 c.word = false) (hleft : c.left = n + 1) :
    finishAttempt c s = startAttempt c.word n c.oversleep (hostRead s).2 := by
  simp [finishAttempt, h, hleft]

end delivery

end Sys2Proof.Machine

namespace Sys2Proof.Proofs

open Sys2Proof.Machine

/-- Settles O45: each action by the halt and by what its channel holds. -/
theorem hostActions : Obligations.HostActions := fun _ w =>
  ⟨fun hh => ⟨hostWrite_of_halted w hh, hostRead_of_halted hh⟩, hostWrite_of_room w, hostWrite_of_full w,
    fun hrun _ _ => hostRead_of_word hrun, hostRead_of_short, rfl⟩

/-- Settles O46: the second part is the first for the word `ackWord r`. -/
theorem ackMatchComparesLowFifteenBits : Obligations.AckMatchComparesLowFifteenBits :=
  fun r w => ⟨ackMatches_iff r w, ackMatches_iff (ackWord r) w⟩

/-- Settles O47: the next attempt starts from what the read left, which has the same `GRACE`. -/
theorem deliveryCountsItsAttempts : Obligations.DeliveryCountsItsAttempts := by
  intro s w attempts os p c n
  refine ⟨runProg_send_of_none w os p, runProg_send_of_succ w os p, finishAttempt_of_match, finishAttempt_of_last,
    fun h hleft => ?_⟩
  rw [finishAttempt_of_succ h hleft, startAttempt, hostRead_cfg]
  rfl

end Sys2Proof.Proofs
end

section
/-! PROOFS. Errors (`60_exceptions.md` R230 to R238): no error stops the machine, and the event a step shows is of the word
its handler popped. -/

namespace Sys2Proof.Machine

/-- The clock edge always answers: a reset step does by its form, the block's step by that of its sub-steps (R235,
R260). -/
theorem exists_clockEdge (s : State) : ∃ t, clockEdge s = .next t := by
  have hblock : ∀ u : State, ∃ t, blockStep u = .next t := fun u => (blockStep_cases u).imp fun _ h => h.1
  unfold clockEdge
  split
  next => exact ⟨_, rfl⟩
  next => exact hblock _
  next => exact hblock _

variable {s t : State}

/-- A word that runs leaves the error output alone, or puts on it an event of a block-side kind with the word itself
(R198, R232). -/
theorem EndsIn.errOut_cases {w : Word} (h : EndsIn w s t) :
    t.errOut = s.errOut ∨ ∃ k : ErrKind, k ≠ .deliveryTimeout ∧ t.errOut = some { kind := k, word := w } := by
  obtain ⟨-, ⟨-, hkept⟩ | ⟨-, hlost⟩ | ⟨k, hk, rfl⟩⟩ := h
  · exact .inl hkept
  · exact .inr ⟨_, by decide, hlost⟩
  · refine .inr ⟨k, ?_, rfl⟩
    rcases hk with rfl | rfl | rfl <;> decide

/-- Of the block's sub-steps only the handler raises an event, and only with the word it popped (R232, R233). -/
theorem BlockStep.errOut_cases (h : BlockStep s t) :
    t.errOut = s.errOut ∨ ∃ (w : Word) (rest : List Byte) (k : ErrKind), chanPopWord s.cmdch = some (w, rest)
      ∧ k ≠ .deliveryTimeout ∧ t.errOut = some { kind := k, word := w } := by
  cases h with
  | halted => exact .inl rfl
  | run t u _ hc hd =>
    have hu : (haltCheck u).errOut = t.errOut := by
      rcases hd with rfl | ⟨o, f, -, rfl⟩ <;> simp
    rw [hu]
    rcases hc with rfl | ⟨-, w, rest, hpop, hexec, -⟩
    · exact .inl (advanceAndTick_errOut s)
    · obtain ⟨hformat, hencode⟩ := encode_decodeCommand w
      obtain ⟨t', ht', hends⟩ := exec_endsIn ((advanceAndTick s).setCmdch rest) _ w hformat hencode
      cases ht'.symm.trans hexec
      rcases hends.errOut_cases with hkept | ⟨k, hk, hraised⟩
      · exact .inl (by simpa using hkept)
      · exact .inr ⟨w, rest, k, hpop, hk, hraised⟩

end Sys2Proof.Machine

namespace Sys2Proof.Proofs

open Sys2Proof.Machine

/-- Settles O51: the configuration is checked first, and the clock edge after it always answers. -/
theorem legalConfigurationNeverStops : Obligations.LegalConfigurationNeverStops := by
  refine fun s => ⟨fun hl => ?_, fun hl => ?_⟩
  · rw [step, machineStep, if_pos hl]
    exact exists_clockEdge (beforeEdge s)
  · rw [step, machineStep, if_neg (by simp [hl])]

/-- Settles O55: the output is empty at the clock edge, a reset step leaves it so, and any other raises only in
its handler. -/
theorem errorOutputIsOfThisStep : Obligations.ErrorOutputIsOfThisStep := by
  intro s t e h he
  obtain ⟨-, -, -, -, -, -, -, -, -, hedge⟩ := atEdge_frame s
  obtain ⟨-, ⟨r, -, rfl⟩ | ⟨-, hb⟩⟩ := step_cases h
  · cases he
  · rcases hb.errOut_cases with hkept | ⟨w, rest, k, hpop, hk, hraised⟩
    · rw [hkept, hedge] at he
      cases he
    · cases he.symm.trans hraised
      exact ⟨hk, rest, hpop⟩

end Sys2Proof.Proofs
end

section
/-! PROOFS. Reset (`70_reset_and_hazards.md` R260), and the round trip of a delivery through an unhindered block (R269):
the command word is popped and acknowledged in the step of the write, and the acknowledgement waits for the read. -/

namespace Sys2Proof.Machine

open Sys2Proof.Safety

/-! ### Legal configurations (R7, R8) -/

theorem legal_two_le_chanCap {c : Config} (h : c.legal = true) : 2 ≤ c.chanCapBytes := by
  simp only [Config.legal, Bool.and_eq_true, decide_eq_true_eq] at h
  omega

theorem legal_grace_pos {c : Config} (h : c.legal = true) : 1 ≤ c.grace := by
  simp only [Config.legal, Bool.and_eq_true, decide_eq_true_eq] at h
  exact Nat.mul_pos (by omega) (by omega)

/-! ### A reset step (R260) -/

theorem clockEdge_of_reset {s : State} {r : List Bool} (h : s.env.rstIn = true :: r) :
    clockEdge s = .next (resetStep (s.setEnv { s.env with rstIn := r })) := by
  simp [clockEdge, h]

/-! ### What the host sees of the block -/

/-- From `s` to `t` nothing happens that the host sees: what its actions read is as before (R210 to R213). -/
structure SameHostSide (s t : State) : Prop where
  cfg     : t.cfg = s.cfg
  cmdch   : t.cmdch = s.cmdch
  ackch   : t.ackch = s.ackch
  stopReq : t.stopReq = s.stopReq
  halted  : t.halted = s.halted
  env     : t.env = s.env

theorem SameHostSide.trans {s t u : State} (h : SameHostSide s t) (k : SameHostSide t u) : SameHostSide s u :=
  ⟨k.cfg.trans h.cfg, k.cmdch.trans h.cmdch, k.ackch.trans h.ackch, k.stopReq.trans h.stopReq,
    k.halted.trans h.halted, k.env.trans h.env⟩

section blockStep

variable {s : State}

theorem advanceAndTick_sameHostSide (s : State) : SameHostSide s (advanceAndTick s) := by
  constructor <;> simp

theorem haltCheck_of_not_stopReq (hs : s.stopReq = false) : haltCheck s = s := by
  simp [haltCheck_eq, hs]

/-- Without a stop request the arbiter and the halt check are out of the host's sight, granted or not (R171, R178). -/
theorem exists_afterHandler_sameHostSide (hs : s.stopReq = false) :
    ∃ t, afterHandler s = .next t ∧ SameHostSide s t := by
  cases ho : offered s with
  | none =>
    refine ⟨_, afterHandler_of_offered_none ho, ?_⟩
    rw [haltCheck_of_not_stopReq hs]
    exact ⟨rfl, rfl, rfl, rfl, rfl, rfl⟩
  | some p =>
    obtain ⟨o, f⟩ := p
    refine ⟨_, afterHandler_of_offered ho, ?_⟩
    rw [haltCheck_of_not_stopReq (by simpa using hs)]
    constructor <;> simp

/-- A step with no word to pop shows the host nothing (R160, R190). -/
theorem exists_blockStep_of_no_word (hrun : s.halted = false) (hs : s.stopReq = false) (hcmd : s.cmdch.length < 2) :
    ∃ t, blockStep s = .next t ∧ SameHostSide s t := by
  have ha := advanceAndTick_sameHostSide s
  obtain ⟨t, ht, hst⟩ := exists_afterHandler_sameHostSide (ha.stopReq.trans hs)
  refine ⟨t, ?_, ha.trans hst⟩
  rw [blockStep_of_not_stopReq hrun hs, handlerStep_of_no_word (by simpa using hcmd)]
  exact ht

/-- A locomotive word for an address some slot has is acknowledged, given room, and its slot write is out of the host's
sight (R192, R197). -/
theorem exists_exec_locoWord {w : Word} (htype : typeField w = 1#2) (hslot : ∃ r ∈ s.slots, r.addr = locoAddr w)
    (hroom : s.ackch.length + 2 ≤ s.cfg.chanCapBytes) :
    ∃ t, exec (decodeCommand w) s = .next t ∧ SameHostSide (s.setAckch (s.ackch ++ wordBytes (ackWord w))) t := by
  have hdecode : decodeCommand w = .cmdLoco (ackBit w) (locoAddr w) (locoDir w) (locoLight w) (locoSpeed w) :=
    if_pos htype
  have hword : locoWord (locoAddr w) (locoSpeed w) (locoDir w) (locoLight w) (ackBit w) = w := by
    rw [locoWord_fields, ← htype, badWord_parts]
  obtain ⟨r, hr, haddr⟩ := hslot
  cases hl : lookup (locoAddr w) s with
  | none => exact absurd haddr (lookup_eq_none_iff.mp hl r hr)
  | some i =>
    refine ⟨_, hdecode ▸ exec_cmdLoco_of_lookup_some _ _ _ _ hl, ?_⟩
    rw [hword, sendAck_of_room (s := slotWrite _ _ _ _ s) w hroom]
    exact ⟨rfl, rfl, rfl, rfl, rfl, rfl⟩

/-- Such a word at the front of the command channel is popped and acknowledged in one step, which shows the host nothing
else (R160, R190). -/
theorem exists_blockStep_of_locoWord {w : Word} {rest : List Byte} (hrun : s.halted = false) (hs : s.stopReq = false)
    (hcmd : s.cmdch = wordBytes w ++ rest) (htype : typeField w = 1#2) (hslot : ∃ r ∈ s.slots, r.addr = locoAddr w)
    (hroom : s.ackch.length + 2 ≤ s.cfg.chanCapBytes) :
    ∃ t, blockStep s = .next t
      ∧ SameHostSide ((s.setCmdch rest).setAckch (s.ackch ++ wordBytes (ackWord w))) t := by
  have hpop : chanPopWord (advanceAndTick s).cmdch = some (w, rest) := by
    rw [advanceAndTick_cmdch, hcmd, chanPopWord_wordBytes_append]
  obtain ⟨u, hexec, hu⟩ := exists_exec_locoWord (s := (advanceAndTick s).setCmdch rest) htype (by simpa using hslot)
    (by simpa using hroom)
  have hsu : SameHostSide ((s.setCmdch rest).setAckch (s.ackch ++ wordBytes (ackWord w))) u :=
    .trans (by constructor <;> simp) hu
  obtain ⟨t, ht, hut⟩ := exists_afterHandler_sameHostSide (hsu.stopReq.trans hs)
  refine ⟨t, ?_, hsu.trans hut⟩
  rw [blockStep_of_not_stopReq hrun hs, handlerStep_of_decodeBytes (decodeBytes_of_pop hpop), hexec]
  exact ht

end blockStep

/-! ### The host's turn of a delivery (R215, R217) -/

section atEdge

variable {s : State}

/-- The write: a running block's command channel with room takes the word, and one step of the wait passes. -/
theorem atEdge_of_send {w : Word} {attempts : Option (BitVec 16)} {os : List Nat} {p : List HostOp} {n : Nat}
    (hcl : s.env.client = none) (hprog : s.env.prog = .send w attempts os :: p)
    (hn : (attempts.getD s.cfg.defaultAttempts).toNat = n + 1) (hrun : s.halted = false)
    (hroom : s.cmdch.length + 2 ≤ s.cfg.chanCapBytes) :
    atEdge s = ((s.setErrOut none).setCmdch (s.cmdch ++ wordBytes w)).setEnv
      { rstIn := s.env.rstIn.tail
        prog := p
        client := some { word := w, left := n, wait := s.cfg.grace + os.headD 0 - 1, oversleep := os.tail }
        replies := [] } := by
  have hturn : hostTurn (clearOutputs s) = runProg (.send w attempts os :: p) (clearOutputs s) := by
    simp [hostTurn, clientTurn, clearOutputs, hcl, hprog]
  have hwrite := hostWrite_of_room (s := clearOutputs s) w hrun hroom
  rw [atEdge, beforeEdge, hturn, runProg_send_of_succ (s := clearOutputs s) w os p hn, startAttempt, hwrite]
  rfl

/-- The wait: one step of it passes. -/
theorem atEdge_of_waiting {c : Client} (hcl : s.env.client = some c) (hwait : c.wait ≠ 0) :
    atEdge s = (s.setErrOut none).setEnv
      { rstIn := s.env.rstIn.tail
        prog := s.env.prog
        client := some { c with wait := c.wait - 1 }
        replies := [] } := by
  have hturn : hostTurn (clearOutputs s) = clearOutputs s := by
    simp [hostTurn, clientTurn, clearOutputs, hcl, hwait]
  have hclient : (clearOutputs s).env.client = some c := hcl
  simp only [atEdge, beforeEdge, hturn, passTime, hclient]
  rfl

/-- The read that finds the acknowledgement, after which the host has nothing left to do. -/
theorem atEdge_of_acknowledged {c : Client} {rest : List Byte} (hcl : s.env.client = some c) (hwait : c.wait = 0)
    (hprog : s.env.prog = []) (hrun : s.halted = false) (hack : s.ackch = wordBytes (ackWord c.word) ++ rest) :
    atEdge s = ((s.setErrOut none).setAckch rest).setEnv
      { rstIn := s.env.rstIn.tail
        prog := []
        client := none
        replies := [.delivered c.word] } := by
  have hread : hostRead (clearOutputs s) = (.word (ackWord c.word), (clearOutputs s).setAckch rest) :=
    hostRead_of_word hrun hack
  have hmatch : acknowledges (hostRead (clearOutputs s)).1 c.word = true := by
    rw [hread]
    exact (ackMatches_iff _ _).mpr rfl
  have hturn : clientTurn (clearOutputs s) = finishAttempt c (clearOutputs s) := by
    simp [clientTurn, clearOutputs, hcl, hwait]
  rw [atEdge, beforeEdge, hostTurn, hturn, finishAttempt_of_match hmatch, hread]
  simp only [finishClient, reply, clearOutputs, State.setEnv_env, State.setAckch_env, hprog]
  rfl

end atEdge

/-! ### A delivery whose word is acknowledged (R215, R269) -/

theorem core_run_succ {s t : State} (h : step s = .next t) (k : Nat) : core.run (k + 1) s = core.run k t := by
  have hstep : core.step s = .next t := h
  simp only [Host.Core.run, hstep]

/-- The word of the delivery `c` has been carried out, and its acknowledgement lies alone in the channels of a running
block; the host has nothing else to do. -/
structure Awaits (c : Client) (s : State) : Prop where
  legal   : s.cfg.legal = true
  running : s.halted = false
  stopReq : s.stopReq = false
  cmdch   : s.cmdch = []
  ackch   : s.ackch = wordBytes (ackWord c.word)
  rstIn   : s.env.rstIn = []
  prog    : s.env.prog = []
  client  : s.env.client = some c

/-- The host has been told that `w` was delivered, and both channels are empty. -/
structure Delivered (w : Word) (s : State) : Prop where
  replies : s.env.replies = [.delivered w]
  client  : s.env.client = none
  cmdch   : s.cmdch = []
  ackch   : s.ackch = []

theorem noReset_of_rstIn_nil {s : State} (h : s.env.rstIn = []) : NoReset s := by
  simp [NoReset, h]

/-- The delivery's first step: the write, and the handler's acknowledgement at its clock edge (R160, R192, R215). -/
theorem exists_step_of_send {s : State} {w : Word} {attempts : Option (BitVec 16)} {os : List Nat} {n : Nat}
    (hl : s.cfg.legal = true) (hrun : s.halted = false) (hs : s.stopReq = false) (hcmd : s.cmdch = [])
    (hack : s.ackch = []) (hrst : s.env.rstIn = []) (hcl : s.env.client = none)
    (hprog : s.env.prog = [.send w attempts os]) (hn : (attempts.getD s.cfg.defaultAttempts).toNat = n + 1)
    (htype : typeField w = 1#2) (hslot : ∃ r ∈ s.slots, r.addr = locoAddr w) :
    ∃ t, step s = .next t
      ∧ Awaits { word := w, left := n, wait := s.cfg.grace + os.headD 0 - 1, oversleep := os.tail } t := by
  have hcap := legal_two_le_chanCap hl
  have hedge := atEdge_of_send hcl hprog hn hrun (by simpa [hcmd] using hcap)
  obtain ⟨t, ht, hst⟩ := exists_blockStep_of_locoWord (s := atEdge s) (w := w) (rest := [])
    (by simpa [hedge] using hrun) (by simpa [hedge] using hs) (by simp [hedge, hcmd]) htype
    (by simpa [hedge] using hslot) (by simpa [hedge, hack] using hcap)
  refine ⟨t, (step_of_noReset hl (noReset_of_rstIn_nil hrst)).trans ht, ?_⟩
  rw [hedge, State.setEnv_ackch, State.setCmdch_ackch, State.setErrOut_ackch, hack] at hst
  exact ⟨hst.cfg ▸ hl, hst.halted.trans hrun, hst.stopReq.trans hs, hst.cmdch, hst.ackch, by simp [hst.env, hrst],
    by simp [hst.env], by simp [hst.env]⟩

/-- A step of the wait (R217). -/
theorem Awaits.exists_step {c : Client} {s : State} (h : Awaits c s) (hwait : c.wait ≠ 0) :
    ∃ t, step s = .next t ∧ Awaits { c with wait := c.wait - 1 } t := by
  have hedge := atEdge_of_waiting h.client hwait
  obtain ⟨t, ht, hst⟩ := exists_blockStep_of_no_word (s := atEdge s) (by simpa [hedge] using h.running)
    (by simpa [hedge] using h.stopReq) (by simp [hedge, h.cmdch])
  refine ⟨t, (step_of_noReset h.legal (noReset_of_rstIn_nil h.rstIn)).trans ht, ?_⟩
  rw [hedge] at hst
  exact ⟨hst.cfg ▸ h.legal, hst.halted.trans h.running, hst.stopReq.trans h.stopReq, hst.cmdch.trans h.cmdch,
    hst.ackch.trans h.ackch, by simp [hst.env, h.rstIn], by simp [hst.env, h.prog], by simp [hst.env]⟩

/-- The step after the wait: the read matches (R215, R216). -/
theorem Awaits.exists_last_step {c : Client} {s : State} (h : Awaits c s) (hwait : c.wait = 0) :
    ∃ t, step s = .next t ∧ Delivered c.word t := by
  have hedge := atEdge_of_acknowledged (rest := []) h.client hwait h.prog h.running (by simp [h.ackch])
  obtain ⟨t, ht, hst⟩ := exists_blockStep_of_no_word (s := atEdge s) (by simpa [hedge] using h.running)
    (by simpa [hedge] using h.stopReq) (by simp [hedge, h.cmdch])
  refine ⟨t, (step_of_noReset h.legal (noReset_of_rstIn_nil h.rstIn)).trans ht, ?_⟩
  rw [hedge] at hst
  exact ⟨by simp [hst.env], by simp [hst.env], hst.cmdch.trans h.cmdch, hst.ackch⟩

/-- An acknowledged delivery succeeds once its wait is over, in the step after it. -/
theorem Awaits.exists_run {c : Client} {s : State} (h : Awaits c s) :
    ∃ t, core.run (c.wait + 1) s = .next t ∧ Delivered c.word t := by
  induction hk : c.wait generalizing c s with
  | zero =>
    obtain ⟨t, ht, hd⟩ := h.exists_last_step hk
    exact ⟨t, core_run_succ ht 0, hd⟩
  | succ k ih =>
    obtain ⟨u, hu, hw⟩ := h.exists_step (by omega)
    rw [core_run_succ hu]
    exact ih (c := { c with wait := c.wait - 1 }) hw (by simp [hk])

end Sys2Proof.Machine

namespace Sys2Proof.Proofs

open Sys2Proof.Machine

/-- Settles O56: the host's turn keeps the samples of `rst` and the configuration. -/
theorem resetStepRestoresEveryElement : Obligations.ResetStepRestoresEveryElement := by
  intro s r hl hr
  have hf := beforeEdge_frame s
  have hcfg : (beforeEdge s).cfg = s.cfg := hf.cfg
  rw [step, machineStep, if_pos hl, clockEdge_of_reset (hf.rstIn.trans hr), resetStep, State.setEnv_cfg, hcfg]
  rfl

/-- Settles O48: the first step writes and acknowledges the word, and leaves the rest of the wait and the read. -/
theorem deliverySucceedsAtTheFirstAttempt : Obligations.DeliverySucceedsAtTheFirstAttempt := by
  intro s w attempts extra os hl hrun hs hcmd hack hrst hcl hprog hatt htype hslot
  have hpos : attempts.toNat ≠ 0 := by simpa [BitVec.toNat_eq] using hatt
  obtain ⟨n, hn⟩ := Nat.exists_eq_succ_of_ne_zero hpos
  obtain ⟨u, hu, hw⟩ := exists_step_of_send hl hrun hs hcmd hack hrst hcl hprog hn htype hslot
  obtain ⟨t, ht, hd⟩ := hw.exists_run
  have hgrace := legal_grace_pos hl
  have hsteps : s.cfg.grace + extra - 1 + 1 = s.cfg.grace + extra := Nat.sub_add_cancel (by omega)
  refine ⟨t, ?_, hd.replies, hd.client, hd.cmdch, hd.ackch⟩
  rw [core_run_succ hu, ← hsteps]
  exact ht

end Sys2Proof.Proofs
end

section
/-! PROOFS. A telegram that is not the one the arbiter would grant (log 4): executing it leaves the state. -/

namespace Sys2Proof.Machine

/-- Executing an instruction whose bits are a telegram is transmitting that telegram (log 4). -/
theorem exec_of_encode {i : Instr} {t : Telegram} (h : encode i = .t64 t) (s : State) : exec i s = transmit t s := by
  cases i with
  | tgLoco | tgAcc | tgIdle | tgReset =>
    obtain rfl := Code.t64.inj h
    rfl
  | cmdLoco | cmdAcc | cmdBad00 | cmdBad11 | ackLoco | ackAcc => cases h

/-- The transmitter carries no telegram but the one granted (R133, log 4). -/
theorem transmit_of_not_offered {s : State} {t : Telegram} (h : ∀ o, offered s ≠ some (o, t)) :
    transmit t s = .next s := by
  obtain ⟨o, ho, -⟩ | ⟨-, hkeep⟩ := transmit_cases t s
  · exact absurd ho (h o)
  · exact hkeep

end Sys2Proof.Machine

namespace Sys2Proof.Proofs

open Sys2Proof.Machine

/-- Settles O22: executing a telegram only transmits it, and the transmitter carries none that is not offered. -/
theorem ungrantedTelegramChangesNothing : Obligations.UngrantedTelegramChangesNothing :=
  fun s _ _ henc hoff => (exec_of_encode henc s).trans (transmit_of_not_offered hoff)

end Sys2Proof.Proofs
end
